-- ==== Sys2Proof/Word.lean ====
section
/-!
DEFINITION. The word types of the block (00_scope.md R9: a byte is 8 bits, a word 32 bits; R13: read and
write values travel in a 64-bit carrier) and the legal access widths (20_memory.md R75).
-/
namespace Sys2Proof

/-- 8 bits (R9). -/
abbrev Byte := BitVec 8

/-- 32 bits (R9). -/
abbrev Word := BitVec 32

/-- The 64-bit carrier of read and write values (R13). -/
abbrev Carrier := BitVec 64

/-- The four access widths the Bus serves (R75); a size outside them is no width (R130, R131). -/
inductive Width where
  | w1
  | w2
  | w4
  | w8
deriving DecidableEq, Repr

/-- The number of bytes of a width. -/
def Width.bytes (w : Width) : Nat :=
  match w with
  | .w1 => 1
  | .w2 => 2
  | .w4 => 4
  | .w8 => 8

end Sys2Proof
end

