-- ==== Sys2Proof/Config.lean ====
section
/-!
DEFINITION. What the spec fixes for the block (00_scope.md R7) and what it leaves open (R8): the fixed
parameters are definitions, the open ones constants without a body, so that nothing can be proved of
their value beyond the constraints R8 states (log 5).
-/
namespace Sys2Proof.Config

/-! ### Fixed parameters (R7) -/

/-- Width of the physical address space. -/
abbrev addrBits : Nat := 32

abbrev plicBase : Nat := 0x0C000000
abbrev plicSize : Nat := 0x04000000
abbrev uartBase : Nat := 0x10000000
abbrev uartSize : Nat := 8
abbrev socBase : Nat := 0x20000000
abbrev socSize : Nat := 0x10000000
abbrev ramBase : Nat := 0x80000000
abbrev ramSize : Nat := 0x40000000
/-- Bits of an offset into RAM: `RAM_SIZE` is `2 ^ 30` (`ramSize_eq`). -/
abbrev ramOffBits : Nat := 30

/-- `Bus.clk()` calls per driven tick. -/
abbrev clkDiv : Nat := 1000

/-- Harts. -/
abbrev nHart : Nat := 1

/-- PLIC contexts, `NHART × 2`. -/
abbrev nCtx : Nat := nHart * 2

/-- Source-ids 0..1023. -/
abbrev nSrc : Nat := 1024

/-- The priority table: entry `i` at `4 * i`, of which entry 0 does not exist (R7: `0x4`..`0xFFC`). -/
abbrev plicPrioOff : Nat := 0x0000
abbrev plicPendOff : Nat := 0x1000
/-- One past the pending bitmap, one bit per source-id (R7: `0x1000`..`0x107F`). -/
abbrev plicPendEnd : Nat := plicPendOff + nSrc / 8
abbrev plicEnOff : Nat := 0x2000
/-- Bytes of one context's enable words. -/
abbrev plicEnStride : Nat := 0x80
/-- One past the enable sub-region (30_encoding.md R105: `0x2000`..`0x1F1FFC`). -/
abbrev plicEnEnd : Nat := 0x1F2000
abbrev plicCtxOff : Nat := 0x200000
/-- Bytes of one context's threshold / claim block. -/
abbrev plicCtxStride : Nat := 0x1000

abbrev uartIerMask : Byte := 0x0F#8
abbrev uartMcrMask : Byte := 0x1F#8

/-! ### Open parameters (R8; log 5, log 6) -/

/-- `RAM_INIT`: the contents of RAM at construction, byte index to byte (10_state.md R54). FREE. -/
opaque ramInit : Nat → Byte

/-- Some number, of which `uartIrq` takes a source-id. FREE. -/
opaque uartIrqChoice : Nat

/-- `UART_IRQ` (R8, 42_uart.md R222): some source-id in `1..NSRC-1`, and any of them. -/
def uartIrq : Fin nSrc := ⟨uartIrqChoice % (nSrc - 1) + 1, Nat.succ_lt_succ (Nat.mod_lt _ (by decide))⟩

/-- `UART_RBR_CLEARS_DR` (R8, 42_uart.md R201). FREE. -/
opaque uartRbrClearsDr : Bool

/-- `FB_GEOMETRY` (R8, 43_soc_aux.md R252). FREE. -/
opaque fbGeometry : Word

/-- The host's wall clock in milliseconds at the n-th time it is asked (10_state.md R48, 43_soc_aux.md
R251: "under no law"). FREE; `State.clockDraws` counts the draws (log 3). -/
opaque wallClock : Nat → Carrier

/-- The SoC-auxiliary offsets and the pixel buffer's size (R8). -/
structure SocLayout where
  offTime : Nat
  offFbctl : Nat
  offKbd : Nat
  offPoweroff : Nat
  offPix : Nat
  pixBytes : Nat
deriving DecidableEq, Repr, Inhabited

/-- Two byte ranges, each a start and a length, share no byte; an empty range shares none with any. -/
def apart (a la b lb : Nat) : Bool := la = 0 || lb = 0 || a + la ≤ b || b + lb ≤ a

/-- The constraints R8 puts on the layout, and no other: windows, alignment, pairwise disjoint regions. The
pixel buffer may be empty (`PIX_BYTES = 0` is a multiple of 4). -/
def SocLayout.ok (l : SocLayout) : Bool :=
  (l.offTime + 8 ≤ socSize && l.offTime % 8 = 0) &&
  (l.offFbctl + 8 ≤ socSize && l.offFbctl % 8 = 0) &&
  (l.offKbd + 4 ≤ socSize && l.offKbd % 4 = 0) &&
  (l.offPoweroff + 1 ≤ socSize) &&
  (l.offPix + l.pixBytes ≤ socSize && l.offPix % 4 = 0 && l.pixBytes % 4 = 0) &&
  (apart l.offTime 8 l.offFbctl 8 && apart l.offTime 8 l.offKbd 4 &&
   apart l.offTime 8 l.offPoweroff 1 && apart l.offTime 8 l.offPix l.pixBytes) &&
  (apart l.offFbctl 8 l.offKbd 4 && apart l.offFbctl 8 l.offPoweroff 1 &&
   apart l.offFbctl 8 l.offPix l.pixBytes) &&
  (apart l.offKbd 4 l.offPoweroff 1 && apart l.offKbd 4 l.offPix l.pixBytes) &&
  apart l.offPoweroff 1 l.offPix l.pixBytes

/-- Some layout. FREE. -/
opaque socLayoutChoice : SocLayout

/-- A layout that meets `SocLayout.ok`, used only where `socLayoutChoice` does not meet it (log 5): every
layout that meets it is a possible value of `socLayout`, and no other is. -/
def socLayoutFallback : SocLayout :=
  { offTime := 0, offFbctl := 8, offKbd := 16, offPoweroff := 20, offPix := 24, pixBytes := 4 }

/-- The SoC layout (R8): a free layout among those that meet `SocLayout.ok`. -/
def socLayout : SocLayout := if socLayoutChoice.ok then socLayoutChoice else socLayoutFallback

/-- An offset of `ramOffBits` bits is an offset into RAM, and every one is. -/
theorem ramSize_eq : ramSize = 2 ^ ramOffBits := rfl

/-- The layout meets its constraints, whatever it is. -/
theorem socLayout_ok : socLayout.ok = true := by
  unfold socLayout
  split
  · assumption
  · decide

/-- The number of 32-bit words of the pixel buffer (10_state.md R44). -/
def pixWords : Nat := socLayout.pixBytes / 4

end Sys2Proof.Config
end

