-- ==== Sys2Proof/Syntax.lean ====
section
/-!
DEFINITION. The operations of the block (00_scope.md R6: an instruction is one operation): what an agent
asks for (`Request`, the formats of 30_encoding.md R100 to R103) and the operation selected (`Instr`, one
constructor per row of opcode_table.json).
-/
namespace Sys2Proof

/-- The four devices behind the Bus (00_scope.md R2). -/
inductive Device where
  | ram
  | plic
  | uart
  | soc
deriving DecidableEq, Repr

/-- The two PLIC contexts of hart 0 (10_state.md R30): `hart-index × 2 + privilege-mode`. -/
inductive Context where
  | machine
  | supervisor
deriving DecidableEq, Repr

/-- A source-id, `0..NSRC-1` (00_scope.md R7); 0 means "no interrupt". -/
abbrev SourceId := Fin Config.nSrc

/-- An Irq event (00_scope.md glossary): a source-id and whether its line is asserted. -/
structure IrqEvent where
  source : SourceId
  level : Bool
deriving DecidableEq, Repr

/-- The one command of the out-of-band channel (10_state.md R46). -/
inductive Command where
  | poweroff
deriving DecidableEq, Repr

/-- The four Channel queues (44_channel_host.md R280). -/
inductive Queue where
  | rxq
  | txq
  | kbd
  | cmdq
deriving DecidableEq, Repr

/-- A value together with the queue whose element it is (R280). -/
inductive ChanVal where
  | rxq (b : Byte)
  | txq (b : Byte)
  | kbd (k : Word)
  | cmdq (c : Command)
deriving DecidableEq, Repr

/-- What an agent asks of the block, as it arrives, before an address has selected a register: the
formats of R100 (caller), R101 and R102 (device and PLIC internal), R280 (channel) and R103 (host).
Addresses, sizes, contexts and source-ids arrive as plain numbers; `Decode.lean` checks them. -/
inductive Request where
  | read (address size : Nat)
  | write (address size : Nat) (value : Carrier)
  | clk
  | poll
  | plicBest (context : Nat)
  | plicIrq (source : Nat) (level : Bool)
  | plicCheckInterrupt
  | plicClaim (context : Nat)
  | plicComplete (context : Nat) (source : Word)
  | drain (collector : List IrqEvent)
  | deviceClk (d : Device) (collector : List IrqEvent)
  | push (v : ChanVal)
  | pop (q : Queue)
  | nonempty (q : Queue)
  | clear (q : Queue)
  | hostRx (b : Byte)
  | hostTx
  | hostCmd
  | hostKeys (ks : List Word)
  | hostNow
deriving DecidableEq, Repr

/-- The operations: one constructor per row of opcode_table.json, in the table's order. -/
inductive Instr where
  /-- CLK, R132. -/
  | clk
  /-- POLL, R134. -/
  | poll
  /-- RAM.R, R136: width and offset from `RAM_BASE`. -/
  | ramR (w : Width) (o : BitVec Config.ramOffBits)
  /-- RAM.W, R137: width, offset, the value truncated to the width. -/
  | ramW (w : Width) (o : BitVec Config.ramOffBits) (v : Carrier)
  /-- PLIC.PRIO.R, R165: `i = address[11:2]`. -/
  | plicPrioR (i : SourceId)
  /-- PLIC.PRIO.W, R166. -/
  | plicPrioW (i : SourceId) (v : Word)
  /-- PLIC.PEND.R, R167: word `w = address[6:2]`. -/
  | plicPendR (w : Fin 32)
  /-- PLIC.PEND.W, R168. -/
  | plicPendW (w : Fin 32) (v : Word)
  /-- PLIC.EN.R, R169: context `address[7]`, word `address[6:2]`. -/
  | plicEnR (c : Context) (w : Fin 32)
  /-- PLIC.EN.W, R170. -/
  | plicEnW (c : Context) (w : Fin 32) (v : Word)
  /-- PLIC.THR.R, R171: context `address[12]`. -/
  | plicThrR (c : Context)
  /-- PLIC.THR.W, R172. -/
  | plicThrW (c : Context) (v : Word)
  /-- PLIC.CLAIM.R, R173. -/
  | plicClaimR (c : Context)
  /-- PLIC.COMPLETE.W, R174. -/
  | plicCompleteW (c : Context) (v : Word)
  /-- UART.RBR.R, R201. -/
  | uartRbrR
  /-- UART.DLL.R, R202. -/
  | uartDllR
  /-- UART.THR.W, R203. -/
  | uartThrW (v : Byte)
  /-- UART.DLL.W, R204. -/
  | uartDllW (v : Byte)
  /-- UART.IER.R, R205. -/
  | uartIerR
  /-- UART.IER.W, R206. -/
  | uartIerW (v : Byte)
  /-- UART.DLH.R, R207. -/
  | uartDlhR
  /-- UART.DLH.W, R208. -/
  | uartDlhW (v : Byte)
  /-- UART.IIR.R, R209. -/
  | uartIirR
  /-- UART.FCR.W, R210. -/
  | uartFcrW (v : Byte)
  /-- UART.LCR.R, R211. -/
  | uartLcrR
  /-- UART.LCR.W, R212. -/
  | uartLcrW (v : Byte)
  /-- UART.MCR.R, R213. -/
  | uartMcrR
  /-- UART.MCR.W, R214. -/
  | uartMcrW (v : Byte)
  /-- UART.LSR.R, R215. -/
  | uartLsrR
  /-- UART.LSR.W, R216. -/
  | uartLsrW (v : Byte)
  /-- UART.MSR.R, R217. -/
  | uartMsrR
  /-- UART.MSR.W, R218. -/
  | uartMsrW (v : Byte)
  /-- UART.SCR.R, R219. -/
  | uartScrR
  /-- UART.SCR.W, R220. -/
  | uartScrW (v : Byte)
  /-- SOC.TIME.R, R251. -/
  | socTimeR
  /-- SOC.FBCTL_LO.R, R252. -/
  | socFbctlLoR
  /-- SOC.FBCTL_HI.W, R253. -/
  | socFbctlHiW (v : Word)
  /-- SOC.KBD.R, R254. -/
  | socKbdR
  /-- SOC.POWEROFF.W, R255. -/
  | socPoweroffW (v : Byte)
  /-- SOC.PIX.R, R256: word index `j`. -/
  | socPixR (j : Nat)
  /-- SOC.PIX.W, R257. -/
  | socPixW (j : Nat) (v : Word)
  /-- PLIC.best, R160. -/
  | plicBest (c : Context)
  /-- PLIC.irq, R161. -/
  | plicIrq (source : SourceId) (level : Bool)
  /-- PLIC.check_interrupt, R162. -/
  | plicCheckInterrupt
  /-- PLIC.claim, R163. -/
  | plicClaim (c : Context)
  /-- PLIC.complete, R164: the source-id is any 32-bit number. -/
  | plicComplete (c : Context) (source : Word)
  /-- Bus.drain, R133. -/
  | busDrain (collector : List IrqEvent)
  /-- RAM.clk, R138. -/
  | ramClk (collector : List IrqEvent)
  /-- PLIC.clk, R178. -/
  | plicClk (collector : List IrqEvent)
  /-- UART.clk, R221. -/
  | uartClk (collector : List IrqEvent)
  /-- SOC.clk, R258. -/
  | socClk (collector : List IrqEvent)
  /-- Channel.push, R281. -/
  | channelPush (v : ChanVal)
  /-- Channel.pop, R282. -/
  | channelPop (q : Queue)
  /-- Channel.nonempty, R283. -/
  | channelNonempty (q : Queue)
  /-- Channel.clear, R283. -/
  | channelClear (q : Queue)
  /-- HOST.RX, R285. -/
  | hostRx (b : Byte)
  /-- HOST.TX, R286. -/
  | hostTx
  /-- HOST.CMD, R287. -/
  | hostCmd
  /-- HOST.KEYS, R258. -/
  | hostKeys (ks : List Word)
  /-- HOST.NOW, R251. -/
  | hostNow
deriving DecidableEq, Repr

end Sys2Proof
end

