-- ==== Sys2Proof/WellFormed.lean ====
section
/-!
DEFINITION. When a term of `Instr` is an operation of the block: the conditions opcode_table.json and the
rules put on operands beyond their widths, and the value of DLAB a row's `cond` asks for.
-/
namespace Sys2Proof

/-- No two events of a collector share a source-id (40_bus_memory.md R133: a collision "is excluded by
construction"). -/
def noCollision (collector : List IrqEvent) : Bool := decide (collector.map (·.source)).Nodup

/-- A key word is a non-zero word (00_scope.md R8, 44_channel_host.md R288). -/
def keyWords (ks : List Word) : Bool := ks.all (· != 0#32)

/-- The operand conditions of each row. -/
def Instr.wf (i : Instr) : Bool :=
  match i with
  | .ramR w o => decide (o.toNat + w.bytes ≤ Config.ramSize)
  | .ramW w o v =>
    decide (o.toNat + w.bytes ≤ Config.ramSize) && decide (v.toNat < 2 ^ (8 * w.bytes))
  | .plicPrioR i => i != 0
  | .plicPrioW i _ => i != 0
  | .socPixR j => decide (j < Config.pixWords)
  | .socPixW j _ => decide (j < Config.pixWords)
  | .busDrain evs => noCollision evs
  | .channelPush (.kbd k) => k != 0#32
  | .hostKeys ks => keyWords ks
  | .channelPush (.rxq _) | .channelPush (.txq _) | .channelPush (.cmdq _) => true
  | .clk | .poll | .plicPendR _ | .plicPendW _ _ | .plicEnR _ _ | .plicEnW _ _ _ | .plicThrR _
  | .plicThrW _ _ | .plicClaimR _ | .plicCompleteW _ _ => true
  | .uartRbrR | .uartDllR | .uartThrW _ | .uartDllW _ | .uartIerR | .uartIerW _ | .uartDlhR
  | .uartDlhW _ | .uartIirR | .uartFcrW _ | .uartLcrR | .uartLcrW _ | .uartMcrR | .uartMcrW _
  | .uartLsrR | .uartLsrW _ | .uartMsrR | .uartMsrW _ | .uartScrR | .uartScrW _ => true
  | .socTimeR | .socFbctlLoR | .socFbctlHiW _ | .socKbdR | .socPoweroffW _ => true
  | .plicBest _ | .plicIrq _ _ | .plicCheckInterrupt | .plicClaim _ | .plicComplete _ _ => true
  | .ramClk _ | .plicClk _ | .uartClk _ | .socClk _ => true
  | .channelPop _ | .channelNonempty _ | .channelClear _ => true
  | .hostRx _ | .hostTx | .hostCmd | .hostNow => true

/-- The value of DLAB (`uart.lcr[7]`) at which the row applies; `none` where it applies at both
(30_encoding.md R104, R113 `cond`). -/
def Instr.dlabCond (i : Instr) : Option Bool :=
  match i with
  | .uartRbrR | .uartThrW _ | .uartIerR | .uartIerW _ => some false
  | .uartDllR | .uartDllW _ | .uartDlhR | .uartDlhW _ => some true
  | _ => none

/-- The row applies when DLAB has this value. -/
def Instr.dlabOk (dlab : Bool) (i : Instr) : Bool :=
  match i.dlabCond with
  | none => true
  | some b => b == dlab

end Sys2Proof
end

