-- ==== Sys2Proof/Decode.lean ====
section
/-!
DEFINITION. From a request to the operation it selects (30_encoding.md R104 to R107), rejecting by name
what selects nothing (R109), and back (`encode`). The block has no instruction words: the "encoding" of an
operation is its request, and for READ and WRITE the triple (direction, size, address).
-/
namespace Sys2Proof

/-- Why a request selects no operation. The first three are the causes of the access fault (R109); the
others are operands outside the ranges R102, R133 and R288 give the operations that have no address. -/
inductive Reject where
  /-- (a) the address matches no device range. -/
  | noRange
  /-- (b) the size is no width, or not the width of the register. -/
  | badWidth
  /-- (c) the offset, or the register in this direction, is a gap. -/
  | gap
  /-- A context number of `NCTX` or above in an internal PLIC operation (R102). -/
  | noSuchContext
  /-- A source-id above 1023 in `irq` (R102). -/
  | noSuchSource
  /-- Two events for one source-id in one collector (R133, D10). -/
  | irqCollision
  /-- A key word 0 (R288). -/
  | zeroKeyWord
deriving DecidableEq, Repr

/-- An operation, or the name of why there is none. -/
inductive Decoded where
  | ok (i : Instr)
  | rejected (r : Reject)
deriving DecidableEq, Repr

/-! ### Address decode (20_memory.md R72) -/

/-- `route(a)` of R72; an address of `2^32` or more matches no range (D42). -/
def route (a : Nat) : Option Device :=
  if Config.plicBase ≤ a ∧ a < Config.plicBase + Config.plicSize then some .plic
  else if Config.uartBase ≤ a ∧ a < Config.uartBase + Config.uartSize then some .uart
  else if Config.socBase ≤ a ∧ a < Config.socBase + Config.socSize then some .soc
  else if Config.ramBase ≤ a ∧ a < Config.ramBase + Config.ramSize then some .ram
  else none

/-- The width of a size in bytes, if it is one (R75). -/
def widthOf (size : Nat) : Option Width :=
  match size with
  | 1 => some .w1
  | 2 => some .w2
  | 4 => some .w4
  | 8 => some .w8
  | _ => none

/-- The context of a number `0..NCTX-1` (10_state.md R30: `hart-index × 2 + privilege-mode`, of one hart). -/
def contextOf (c : Nat) : Option Context :=
  if c < Config.nCtx then
    match c with
    | 0 => some .machine
    | _ => some .supervisor
  else none

/-- The number of a context (10_state.md R30). -/
def contextNumber (c : Context) : Nat :=
  match c with
  | .machine => 0
  | .supervisor => 1

/-- A PLIC register (R105). -/
inductive PlicReg where
  | prio (i : SourceId)
  | pend (w : Fin 32)
  | en (c : Context) (w : Fin 32)
  | thr (c : Context)
  | claim (c : Context)
deriving DecidableEq, Repr

/-- The word of a context block (R105): sub-offset 0 the threshold, 4 claim / complete, the rest a gap. -/
def plicBlockReg (c : Context) (s : Nat) : Option PlicReg :=
  match s with
  | 0 => some (.thr c)
  | 4 => some (.claim c)
  | _ => none

/-- The PLIC register at an offset (R105); `none` in the gaps of R176 and at an offset that is not a
multiple of 4 (R175). -/
def plicSelect (o : Nat) : Option PlicReg :=
  if o % 4 ≠ 0 then none
  else if o < Config.plicPendOff then
    if o < Config.plicPrioOff + 4 then none
    else some (.prio (Fin.ofNat Config.nSrc ((o - Config.plicPrioOff) / 4)))
  else if o < Config.plicPendEnd then
    some (.pend (Fin.ofNat 32 ((o - Config.plicPendOff) / 4)))
  else if o < Config.plicEnOff then none
  else if o < Config.plicEnEnd then
    match contextOf ((o - Config.plicEnOff) / Config.plicEnStride) with
    | none => none
    | some c => some (.en c (Fin.ofNat 32 ((o - Config.plicEnOff) % Config.plicEnStride / 4)))
  else if o < Config.plicCtxOff then none
  else
    match contextOf ((o - Config.plicCtxOff) / Config.plicCtxStride) with
    | none => none
    | some c => plicBlockReg c ((o - Config.plicCtxOff) % Config.plicCtxStride)

/-- A SoC-auxiliary register (R106). -/
inductive SocReg where
  | time
  | fbLo
  | fbHi
  | kbd
  | poweroff
  | pix (j : Nat)
deriving DecidableEq, Repr

/-- The SoC register at an offset (R106, 43_soc_aux.md R250), under a layout. -/
def socSelect (l : Config.SocLayout) (o : Nat) : Option SocReg :=
  if o = l.offTime then some .time
  else if o = l.offFbctl then some .fbLo
  else if o = l.offFbctl + 4 then some .fbHi
  else if o = l.offKbd then some .kbd
  else if o = l.offPoweroff then some .poweroff
  else if l.offPix ≤ o ∧ o < l.offPix + l.pixBytes ∧ (o - l.offPix) % 4 = 0 then
    some (.pix ((o - l.offPix) / 4))
  else none

/-- The offset of a SoC register (R106). -/
def socOffset (l : Config.SocLayout) (r : SocReg) : Nat :=
  match r with
  | .time => l.offTime
  | .fbLo => l.offFbctl
  | .fbHi => l.offFbctl + 4
  | .kbd => l.offKbd
  | .poweroff => l.offPoweroff
  | .pix j => l.offPix + 4 * j

/-- The one width of a SoC register (R106). -/
def socWidth (r : SocReg) : Width :=
  match r with
  | .time => .w8
  | .fbLo | .fbHi | .kbd | .pix _ => .w4
  | .poweroff => .w1

/-! ### READ -/

/-- RAM.R (R107, 40_bus_memory.md R136): any width and alignment, all bytes inside RAM. -/
def decodeRamRead (o : Nat) (w : Width) : Decoded :=
  if o + w.bytes ≤ Config.ramSize then .ok (.ramR w (BitVec.ofNat Config.ramOffBits o)) else .rejected .badWidth

/-- READ of a PLIC register (R175). -/
def decodePlicRead (o : Nat) (w : Width) : Decoded :=
  if w ≠ .w4 then .rejected .badWidth
  else match plicSelect o with
    | none => .rejected .gap
    | some (.prio i) => .ok (.plicPrioR i)
    | some (.pend w) => .ok (.plicPendR w)
    | some (.en c w) => .ok (.plicEnR c w)
    | some (.thr c) => .ok (.plicThrR c)
    | some (.claim c) => .ok (.plicClaimR c)

/-- READ of a UART register (R104, 42_uart.md R200). -/
def decodeUartRead (dlab : Bool) (o : Nat) (w : Width) : Decoded :=
  if w ≠ .w1 then .rejected .badWidth
  else match o with
    | 0 => .ok (if dlab then .uartDllR else .uartRbrR)
    | 1 => .ok (if dlab then .uartDlhR else .uartIerR)
    | 2 => .ok .uartIirR
    | 3 => .ok .uartLcrR
    | 4 => .ok .uartMcrR
    | 5 => .ok .uartLsrR
    | 6 => .ok .uartMsrR
    | 7 => .ok .uartScrR
    | _ => .rejected .gap

/-- READ of a SoC register (43_soc_aux.md R250). -/
def decodeSocRead (o : Nat) (w : Width) : Decoded :=
  match socSelect Config.socLayout o with
  | none => .rejected .gap
  | some r =>
    if w ≠ socWidth r then .rejected .badWidth
    else match r with
      | .time => .ok .socTimeR
      | .fbLo => .ok .socFbctlLoR
      | .kbd => .ok .socKbdR
      | .pix j => .ok (.socPixR j)
      | .fbHi | .poweroff => .rejected .gap

/-- `Bus.read` (40_bus_memory.md R130): size, route, device. -/
def decodeRead (dlab : Bool) (a size : Nat) : Decoded :=
  match widthOf size with
  | none => .rejected .badWidth
  | some w =>
    match route a with
    | none => .rejected .noRange
    | some .ram => decodeRamRead (a - Config.ramBase) w
    | some .plic => decodePlicRead (a - Config.plicBase) w
    | some .uart => decodeUartRead dlab (a - Config.uartBase) w
    | some .soc => decodeSocRead (a - Config.socBase) w

/-! ### WRITE -/

/-- `trunc_(8·size)` of a written value (00_scope.md R13, 40_bus_memory.md R131). -/
def truncTo (w : Width) (v : Carrier) : Carrier :=
  match w with
  | .w1 => (v.setWidth 8).setWidth 64
  | .w2 => (v.setWidth 16).setWidth 64
  | .w4 => (v.setWidth 32).setWidth 64
  | .w8 => v

/-- RAM.W (R107, 40_bus_memory.md R137). -/
def decodeRamWrite (o : Nat) (w : Width) (v : Carrier) : Decoded :=
  if o + w.bytes ≤ Config.ramSize then .ok (.ramW w (BitVec.ofNat Config.ramOffBits o) (truncTo w v))
  else .rejected .badWidth

/-- WRITE of a PLIC register (R175); the pending bitmap's write side is a row of its own (R168). -/
def decodePlicWrite (o : Nat) (w : Width) (v : Word) : Decoded :=
  if w ≠ .w4 then .rejected .badWidth
  else match plicSelect o with
    | none => .rejected .gap
    | some (.prio i) => .ok (.plicPrioW i v)
    | some (.pend w) => .ok (.plicPendW w v)
    | some (.en c w) => .ok (.plicEnW c w v)
    | some (.thr c) => .ok (.plicThrW c v)
    | some (.claim c) => .ok (.plicCompleteW c v)

/-- WRITE of a UART register (R104, 42_uart.md R200); the write sides of offsets 5 and 6 are rows of their
own (R216, R218). -/
def decodeUartWrite (dlab : Bool) (o : Nat) (w : Width) (v : Byte) : Decoded :=
  if w ≠ .w1 then .rejected .badWidth
  else match o with
    | 0 => .ok (if dlab then .uartDllW v else .uartThrW v)
    | 1 => .ok (if dlab then .uartDlhW v else .uartIerW v)
    | 2 => .ok (.uartFcrW v)
    | 3 => .ok (.uartLcrW v)
    | 4 => .ok (.uartMcrW v)
    | 5 => .ok (.uartLsrW v)
    | 6 => .ok (.uartMsrW v)
    | 7 => .ok (.uartScrW v)
    | _ => .rejected .gap

/-- WRITE of a SoC register (43_soc_aux.md R250). -/
def decodeSocWrite (o : Nat) (w : Width) (v : Carrier) : Decoded :=
  match socSelect Config.socLayout o with
  | none => .rejected .gap
  | some r =>
    if w ≠ socWidth r then .rejected .badWidth
    else match r with
      | .fbHi => .ok (.socFbctlHiW (v.setWidth 32))
      | .poweroff => .ok (.socPoweroffW (v.setWidth 8))
      | .pix j => .ok (.socPixW j (v.setWidth 32))
      | .time | .fbLo | .kbd => .rejected .gap

/-- `Bus.write` (40_bus_memory.md R131): size, truncation, route, device. -/
def decodeWrite (dlab : Bool) (a size : Nat) (v : Carrier) : Decoded :=
  match widthOf size with
  | none => .rejected .badWidth
  | some w =>
    match route a with
    | none => .rejected .noRange
    | some .ram => decodeRamWrite (a - Config.ramBase) w v
    | some .plic => decodePlicWrite (a - Config.plicBase) w (v.setWidth 32)
    | some .uart => decodeUartWrite dlab (a - Config.uartBase) w (v.setWidth 8)
    | some .soc => decodeSocWrite (a - Config.socBase) w v

/-! ### Every request -/

/-- A context number given to an internal PLIC operation (R102). -/
def withContext (c : Nat) (f : Context → Instr) : Decoded :=
  match contextOf c with
  | none => .rejected .noSuchContext
  | some c => .ok (f c)

/-- A source-id given to `irq` (R102). -/
def decodeIrq (source : Nat) (level : Bool) : Decoded :=
  if source < Config.nSrc then .ok (.plicIrq (Fin.ofNat Config.nSrc source) level)
  else .rejected .noSuchSource

/-- `clk` of one device (R101). -/
def decodeDeviceClk (d : Device) (collector : List IrqEvent) : Decoded :=
  match d with
  | .ram => .ok (.ramClk collector)
  | .plic => .ok (.plicClk collector)
  | .uart => .ok (.uartClk collector)
  | .soc => .ok (.socClk collector)

/-- A push on a queue (44_channel_host.md R281); the keyboard FIFO holds non-zero words (10_state.md R43). -/
def decodePush (v : ChanVal) : Decoded :=
  match v with
  | .kbd k => if k = 0#32 then .rejected .zeroKeyWord else .ok (.channelPush (.kbd k))
  | .rxq b => .ok (.channelPush (.rxq b))
  | .txq b => .ok (.channelPush (.txq b))
  | .cmdq c => .ok (.channelPush (.cmdq c))

/-- The operation a request selects, DLAB being sampled at the access itself (R110). -/
def decode (dlab : Bool) (r : Request) : Decoded :=
  match r with
  | .read a n => decodeRead dlab a n
  | .write a n v => decodeWrite dlab a n v
  | .clk => .ok .clk
  | .poll => .ok .poll
  | .plicBest c => withContext c .plicBest
  | .plicIrq i b => decodeIrq i b
  | .plicCheckInterrupt => .ok .plicCheckInterrupt
  | .plicClaim c => withContext c .plicClaim
  | .plicComplete c i => withContext c (fun c => .plicComplete c i)
  | .drain evs => if noCollision evs then .ok (.busDrain evs) else .rejected .irqCollision
  | .deviceClk d evs => decodeDeviceClk d evs
  | .push v => decodePush v
  | .pop q => .ok (.channelPop q)
  | .nonempty q => .ok (.channelNonempty q)
  | .clear q => .ok (.channelClear q)
  | .hostRx b => .ok (.hostRx b)
  | .hostTx => .ok .hostTx
  | .hostCmd => .ok .hostCmd
  | .hostKeys ks => if keyWords ks then .ok (.hostKeys ks) else .rejected .zeroKeyWord
  | .hostNow => .ok .hostNow

/-! ### The encoder -/

/-- The offset of a PLIC register in its window (R105). -/
def plicOffset (r : PlicReg) : Nat :=
  match r with
  | .prio i => Config.plicPrioOff + 4 * i.val
  | .pend w => Config.plicPendOff + 4 * w.val
  | .en c w => Config.plicEnOff + Config.plicEnStride * contextNumber c + 4 * w.val
  | .thr c => Config.plicCtxOff + Config.plicCtxStride * contextNumber c
  | .claim c => Config.plicCtxOff + Config.plicCtxStride * contextNumber c + 4

/-- The address of a PLIC register. -/
def plicAddress (r : PlicReg) : Nat := Config.plicBase + plicOffset r

/-- READ of a PLIC register. -/
def plicRead (r : PlicReg) : Request := .read (plicAddress r) 4

/-- WRITE of a PLIC register. -/
def plicWrite (r : PlicReg) (v : Word) : Request := .write (plicAddress r) 4 (v.setWidth 64)

/-- READ of the UART register at an offset (R104). -/
def uartRead (o : Nat) : Request := .read (Config.uartBase + o) 1

/-- WRITE of the UART register at an offset (R104). -/
def uartWrite (o : Nat) (v : Byte) : Request := .write (Config.uartBase + o) 1 (v.setWidth 64)

/-- READ of a SoC register (R106). -/
def socRead (r : SocReg) : Request :=
  .read (Config.socBase + socOffset Config.socLayout r) (socWidth r).bytes

/-- WRITE of a SoC register (R106). -/
def socWrite (r : SocReg) (v : Carrier) : Request :=
  .write (Config.socBase + socOffset Config.socLayout r) (socWidth r).bytes v

/-- The request that selects an operation (R104 to R107 and the formats of R100 to R103). -/
def encode (i : Instr) : Request :=
  match i with
  | .clk => .clk
  | .poll => .poll
  | .ramR w o => .read (Config.ramBase + o.toNat) w.bytes
  | .ramW w o v => .write (Config.ramBase + o.toNat) w.bytes v
  | .plicPrioR i => plicRead (.prio i)
  | .plicPrioW i v => plicWrite (.prio i) v
  | .plicPendR w => plicRead (.pend w)
  | .plicPendW w v => plicWrite (.pend w) v
  | .plicEnR c w => plicRead (.en c w)
  | .plicEnW c w v => plicWrite (.en c w) v
  | .plicThrR c => plicRead (.thr c)
  | .plicThrW c v => plicWrite (.thr c) v
  | .plicClaimR c => plicRead (.claim c)
  | .plicCompleteW c v => plicWrite (.claim c) v
  | .uartRbrR => uartRead 0
  | .uartDllR => uartRead 0
  | .uartThrW v => uartWrite 0 v
  | .uartDllW v => uartWrite 0 v
  | .uartIerR => uartRead 1
  | .uartIerW v => uartWrite 1 v
  | .uartDlhR => uartRead 1
  | .uartDlhW v => uartWrite 1 v
  | .uartIirR => uartRead 2
  | .uartFcrW v => uartWrite 2 v
  | .uartLcrR => uartRead 3
  | .uartLcrW v => uartWrite 3 v
  | .uartMcrR => uartRead 4
  | .uartMcrW v => uartWrite 4 v
  | .uartLsrR => uartRead 5
  | .uartLsrW v => uartWrite 5 v
  | .uartMsrR => uartRead 6
  | .uartMsrW v => uartWrite 6 v
  | .uartScrR => uartRead 7
  | .uartScrW v => uartWrite 7 v
  | .socTimeR => socRead .time
  | .socFbctlLoR => socRead .fbLo
  | .socFbctlHiW v => socWrite .fbHi (v.setWidth 64)
  | .socKbdR => socRead .kbd
  | .socPoweroffW v => socWrite .poweroff (v.setWidth 64)
  | .socPixR j => socRead (.pix j)
  | .socPixW j v => socWrite (.pix j) (v.setWidth 64)
  | .plicBest c => .plicBest (contextNumber c)
  | .plicIrq i b => .plicIrq i.val b
  | .plicCheckInterrupt => .plicCheckInterrupt
  | .plicClaim c => .plicClaim (contextNumber c)
  | .plicComplete c i => .plicComplete (contextNumber c) i
  | .busDrain evs => .drain evs
  | .ramClk evs => .deviceClk .ram evs
  | .plicClk evs => .deviceClk .plic evs
  | .uartClk evs => .deviceClk .uart evs
  | .socClk evs => .deviceClk .soc evs
  | .channelPush v => .push v
  | .channelPop q => .pop q
  | .channelNonempty q => .nonempty q
  | .channelClear q => .clear q
  | .hostRx b => .hostRx b
  | .hostTx => .hostTx
  | .hostCmd => .hostCmd
  | .hostKeys ks => .hostKeys ks
  | .hostNow => .hostNow

/-! ### The opcode table's words (log 7) -/

/-- The width at which the register an address selects is accessed: the table's rows number the bits of
the ADDRESS only, so the size is read off the row (R113 `fields.size`); one byte in RAM and elsewhere. -/
def tableSize (a : Nat) : Nat :=
  match route a with
  | some .plic => 4
  | some .uart => 1
  | some .ram => 1
  | some .soc =>
    match socSelect Config.socLayout (a - Config.socBase) with
    | some r => (socWidth r).bytes
    | none => 4
  | none => 1

/-- The request a table word stands for: its low `nbits` bits are an address, every bit above them is 0,
and the zero direction is READ (log 7). -/
def tableRequest (nbits w : Nat) : Request :=
  .read (w % 2 ^ nbits) (tableSize (w % 2 ^ nbits))

/-- The instruction the decoder reads from a table word, with DLAB as reset leaves it (0). -/
def decodeTableWord (nbits w : Nat) : Option Instr :=
  match decode false (tableRequest nbits w) with
  | .ok i => some i
  | .rejected _ => none

end Sys2Proof
end

