-- ==== Sys2Proof/Machine/State.lean ====
section
/-!
DEFINITION. The state of the block (10_state.md), the reasons a step can stop, and the state after reset
(R53 to R58). Plain data throughout.
-/
namespace Sys2Proof.Machine

/-- Why the machine stops. Closed. The block's own access fault is not here: it is an answer to the caller
after which the block goes on (60_exceptions.md R300 to R303; log 2). -/
inductive Fault where
  /-- Raised by `step` when a request hands a key word 0 to the keyboard FIFO, which
  44_channel_host.md R288 forbids the host (log 10). Safe: the block never meets it. -/
  | zeroKeyWord
deriving DecidableEq, Repr

/-- Why there is no meaning. Closed. -/
inductive Refusal where
  /-- Raised by `exec` for an instruction that has no meaning yet. Safe. -/
  | notModelled (mnemonic : String)
  /-- Raised by `step` for an internal PLIC operation on a context that does not exist (30_encoding.md
  R102; log 10). Safe: no agent can issue it. -/
  | noSuchContext
  /-- Raised by `step` for `irq` of a source-id above 1023 (30_encoding.md R102; log 10). Safe. -/
  | noSuchSource
  /-- Raised by `step` for a drain of a collector with two events for one source-id
  (93_implementation_defined.md part 1: "refuse"; log 9). Safe: nothing is promised for a collision. -/
  | irqCollision
deriving DecidableEq, Repr

/-- What the last operation answered to its agent (00_scope.md R12, 30_encoding.md R100 to R103). The
model's own field (log 2). -/
inductive Response where
  /-- No operation has answered yet. -/
  | none
  /-- `Ok(value)` of a READ, zero-extended to the carrier. -/
  | value (v : Carrier)
  /-- `Ok()` of a WRITE. -/
  | done
  /-- `Fault` of a READ or WRITE: the access fault (R300). -/
  | accessFault
  /-- An operation that returns nothing. -/
  | nothing
  /-- `None`, `Some(false)` or `Some(true)` of POLL and `check_interrupt`. -/
  | level (b : Option Bool)
  /-- The source-id that `best` or `claim` returned. -/
  | source (id : Nat)
  /-- The answer of `nonempty`. -/
  | available (b : Bool)
  /-- The value a pop returned. -/
  | received (v : ChanVal)
  /-- A pop on an empty queue: not enabled, the host waits (44_channel_host.md R282, R284; log 8). -/
  | waits
  /-- The collector as a device's `clk` left it (30_encoding.md R101). -/
  | collected (evs : List IrqEvent)
  /-- The wall clock's value (30_encoding.md R103 HOST.NOW). -/
  | now (t : Carrier)
deriving DecidableEq, Repr

/-- RAM as address and byte pairs in one canonical form (`Memory.wf`): absolute addresses, strictly rising,
none listed that holds its initial value (log 6). -/
abbrev Memory := List Host.Cell

/-- The pixel buffer as word index and word pairs, in the same canonical form with initial value 0. -/
abbrev PixMem := List (Nat × Word)

/-- The Bus's own state (R22). -/
structure Bus where
  /-- `bus.div`: `Bus.clk()` calls since the last driven tick. -/
  div : Nat
deriving DecidableEq, Repr

/-- A bitmap over source-ids, bit `i` for source-id `i` (R25, R26, R28). -/
abbrev Bitmap := BitVec Config.nSrc

/-- What the PLIC holds per context (R26 to R28). -/
structure PlicCtx where
  en : Bitmap
  thr : Word
  claimed : Bitmap
deriving DecidableEq, Repr

/-- The PLIC (R24 to R30). `prio` has an entry for each of the source-ids `1..NSRC-1`: entry `k` is source
`k + 1`. -/
structure Plic where
  prio : Vector Word (Config.nSrc - 1)
  pend : Bitmap
  m : PlicCtx
  s : PlicCtx
  upd : Bool
deriving DecidableEq, Repr

/-- The UART (R31 to R42); the modem-status register has no state (R40). `printed` is the sequence of all
bytes ever pushed to `txq` (R42; log 12). -/
structure Uart where
  lcr : Byte
  ier : Byte
  iir : Byte
  mcr : Byte
  lsr : Byte
  scr : Byte
  fcr : Byte
  dll : Byte
  dlh : Byte
  rxq : List Byte
  txq : List Byte
  printed : List Byte
deriving DecidableEq, Repr

/-- The SoC-auxiliary device (R43 to R47). `frames` is the sequence of pixel-buffer snapshots presented
(R47; log 12). -/
structure Soc where
  kbd : List Word
  pix : PixMem
  poff : Bool
  cmdq : List Command
  presents : Nat
  frames : List PixMem
deriving DecidableEq, Repr

/-- The state of the block, whole (R22 to R47), and nothing else: none of what R61 says is not state. -/
structure Block where
  bus : Bus
  ram : Memory
  plic : Plic
  uart : Uart
  soc : Soc
deriving DecidableEq, Repr

/-- What the agents have in hand for the block: inputs and draws, which R61 says are NOT state of the block.
The model's own, beside the block and outside it, because `step` is a function (`trace` log 1, `hostKeys`
log 4, `clockDraws` log 3); `BlockStep` (Machine/Run.lean) leaves all of it open. -/
structure Inputs where
  /-- The operations the agents have yet to issue, in the order they will. -/
  trace : List Request
  /-- Key words the host has supplied and no driven tick has taken. -/
  hostKeys : List Word
  /-- How often the wall clock has been asked: which of its free values comes next. -/
  clockDraws : Nat
deriving DecidableEq, Repr

/-- What `step` runs on: the block, the agents' inputs to it, and the answer the last operation gave its
agent (`resp`, log 2). -/
structure State extends Block, Inputs where
  /-- What the last operation answered. -/
  resp : Response
deriving DecidableEq, Repr

/-- A context at reset (R55). -/
def PlicCtx.reset : PlicCtx := { en := 0#Config.nSrc, thr := 0#32, claimed := 0#Config.nSrc }

/-- The PLIC at reset (R55). -/
def Plic.reset : Plic :=
  { prio := Vector.replicate (Config.nSrc - 1) 0#32, pend := 0#Config.nSrc, m := PlicCtx.reset,
    s := PlicCtx.reset, upd := false }

/-- The UART at reset (R56, R58). -/
def Uart.reset : Uart :=
  { lcr := 0x00#8, ier := 0x00#8, iir := 0x01#8, mcr := 0x00#8, lsr := 0x60#8, scr := 0x00#8,
    fcr := 0x00#8, dll := 0x00#8, dlh := 0x00#8, rxq := [], txq := [], printed := [] }

/-- The SoC-auxiliary device at reset (R57, R58). -/
def Soc.reset : Soc :=
  { kbd := [], pix := [], poff := false, cmdq := [], presents := 0, frames := [] }

/-- The block at reset, which is construction of the Bus (R53 to R58, 70_reset_and_hazards.md R340): RAM
holds `RAM_INIT` (nothing listed). -/
def Block.reset : Block :=
  { bus := { div := 0 }, ram := [], plic := Plic.reset, uart := Uart.reset, soc := Soc.reset }

/-- The machine right after reset: the block as constructed, and no operation issued yet (log 18). -/
def State.reset : State :=
  { Block.reset with trace := [], resp := .none, hostKeys := [], clockDraws := 0 }

end Sys2Proof.Machine
end

