-- ==== Sys2Proof/Machine/Operands.lean ====
section
/-!
DEFINITION. The operand forms: one bit of a register or bitmap, a 32-bit word of a bitmap (30_encoding.md
R105 bit order), zero extension into the carrier (00_scope.md R13), and the little-endian split of a
carrier into bytes (20_memory.md R74).
-/
namespace Sys2Proof.Machine

/-- Bit `i` of `v` assigned (`x[i] <- b`, 00_scope.md R10); a bit beyond the width does not exist. -/
def setBit {n : Nat} (v : BitVec n) (i : Nat) (b : Bool) : BitVec n :=
  if b then v ||| (1#n <<< i) else v &&& ~~~(1#n <<< i)

/-- Word `w` of a bitmap: source-id `32w + j` at bit `j` (R105, 41_plic.md R167). -/
def bitmapWord (b : Bitmap) (w : Nat) : Word := b.extractLsb' (32 * w) 32

/-- The bitmap with word `w` replaced (41_plic.md R170). -/
def setBitmapWord (b : Bitmap) (w : Nat) (v : Word) : Bitmap :=
  (b &&& ~~~((BitVec.allOnes 32).setWidth Config.nSrc <<< (32 * w))) |||
    (v.setWidth Config.nSrc <<< (32 * w))

/-- A datum in the carrier (`zext_64`, R13). -/
def zext {n : Nat} (v : BitVec n) : Carrier := v.setWidth 64

/-- The least significant byte of a carrier (`v[7:0]`). -/
def lowByte (v : Carrier) : Byte := v.setWidth 8

/-- A value with a byte put below it: the little-endian step of R74. -/
def joinByte (b : Byte) (rest : Carrier) : Carrier := b.setWidth 64 ||| (rest <<< 8)

end Sys2Proof.Machine
end

