-- ==== Sys2Proof/Machine/Flags.lean ====
section
/-!
DEFINITION. The flags of the block (10_state.md R32 to R38, R50): each named bit of the UART's registers,
read and assigned, the interrupt conditions computed from them, and the PLIC's update flag.
-/
namespace Sys2Proof.Machine

/-! ### Line control (R32) -/

def Uart.dlab (u : Uart) : Bool := u.lcr.getLsbD 7
def Uart.clrTx (u : Uart) : Bool := u.lcr.getLsbD 2
def Uart.clrRx (u : Uart) : Bool := u.lcr.getLsbD 1
def Uart.setClrTx (u : Uart) (b : Bool) : Uart := { u with lcr := setBit u.lcr 2 b }
def Uart.setClrRx (u : Uart) (b : Bool) : Uart := { u with lcr := setBit u.lcr 1 b }

/-! ### Interrupt enable (R33), modem control (R35), FIFO control (R38) -/

def Uart.etx (u : Uart) : Bool := u.ier.getLsbD 1
def Uart.erx (u : Uart) : Bool := u.ier.getLsbD 0
def Uart.loop (u : Uart) : Bool := u.mcr.getLsbD 4
def Uart.fen (u : Uart) : Bool := u.fcr.getLsbD 0

/-! ### Line status (R36) -/

def Uart.temt (u : Uart) : Bool := u.lsr.getLsbD 6
def Uart.thre (u : Uart) : Bool := u.lsr.getLsbD 5
def Uart.bi (u : Uart) : Bool := u.lsr.getLsbD 4
def Uart.oe (u : Uart) : Bool := u.lsr.getLsbD 1
def Uart.dr (u : Uart) : Bool := u.lsr.getLsbD 0
def Uart.setOe (u : Uart) (b : Bool) : Uart := { u with lsr := setBit u.lsr 1 b }
def Uart.setDr (u : Uart) (b : Bool) : Uart := { u with lsr := setBit u.lsr 0 b }

/-- `TEMT` and `THRE` set: the transmitter is ready (42_uart.md R203, R221). -/
def Uart.setTxReady (u : Uart) : Uart := { u with lsr := setBit (setBit u.lsr 6 true) 5 true }

/-! ### Interrupt conditions (42_uart.md R221 step 4) -/

/-- Receive data: `ERX` and `DR`. -/
def Uart.rdi (u : Uart) : Bool := u.erx && u.dr

/-- Transmit holding empty: `ETX` and `TEMT`. -/
def Uart.thri (u : Uart) : Bool := u.etx && u.temt

/-- The level of the UART's one interrupt line (R222). -/
def Uart.line (u : Uart) : Bool := u.rdi || u.thri

/-- The value of the interrupt-identification register for the present causes (10_state.md R34). -/
def Uart.identification (u : Uart) : Byte :=
  if !u.rdi && !u.thri then 0x01#8
  else (if u.rdi then 0x04#8 else 0x00#8) ||| (if u.thri then 0x02#8 else 0x00#8)

/-! ### The PLIC's update flag (R29) -/

def Plic.setUpd (p : Plic) (b : Bool) : Plic := { p with upd := b }

end Sys2Proof.Machine
end

