-- ==== Sys2Proof/Machine/Ops.lean ====
section
/-!
DEFINITION. The named operations over the state that the meanings share: answering the agent, the access
fault, sparse stores, RAM, the pixel buffer, PLIC arbitration and its claim / complete handshake, the UART's
data register and clock rule, the queues, and what `step` does with a request.
-/
namespace Sys2Proof.Machine

/-! ### Field updates and answers -/

def State.withPlic (s : State) (p : Plic) : State := { s with plic := p }
def State.withUart (s : State) (u : Uart) : State := { s with uart := u }
def State.withSoc (s : State) (d : Soc) : State := { s with soc := d }
def State.withRam (s : State) (m : Memory) : State := { s with ram := m }
def State.withBus (s : State) (b : Bus) : State := { s with bus := b }

/-- The operation answers its agent (00_scope.md R12; log 2). -/
def State.respond (s : State) (r : Response) : State := { s with resp := r }

/-- TAKING THE ACCESS FAULT (60_exceptions.md R300 to R302, R310): the caller is answered `Fault`; nothing
is saved, no mode changes, no state of the block changes, and the block goes on. There is no return from it:
the block's part of an interrupt's entry and return is `Plic.claim` and `Plic.complete` (R310, R311). -/
def State.raiseAccessFault (s : State) : State := s.respond .accessFault

/-- A READ's answer: the datum zero-extended (R13). -/
def State.readAnswer {n : Nat} (s : State) (v : BitVec n) : State := s.respond (.value (zext v))

/-! ### Sparse stores in canonical form -/

/-- The value at key `k`: the listed one, else what an unlisted key reads as. -/
def sparseGet {α : Type} (d : Nat → α) (m : List (Nat × α)) (k : Nat) : α :=
  match m with
  | [] => d k
  | (j, x) :: t => if k = j then x else sparseGet d t k

/-- The store with a pair put at its place in the rising order. -/
def sparseInsert {α : Type} (m : List (Nat × α)) (k : Nat) (v : α) : List (Nat × α) :=
  match m with
  | [] => [(k, v)]
  | (j, x) :: t =>
    if k < j then (k, v) :: (j, x) :: t
    else if k = j then (k, v) :: t
    else (j, x) :: sparseInsert t k v

/-- The store with key `k` unlisted. -/
def sparseErase {α : Type} (m : List (Nat × α)) (k : Nat) : List (Nat × α) :=
  m.filter (fun e => e.1 != k)

/-- A write: a value equal to what an unlisted key reads as is not listed. -/
def sparseSet {α : Type} [DecidableEq α] (d : Nat → α) (m : List (Nat × α)) (k : Nat) (v : α) :
    List (Nat × α) :=
  if v = d k then sparseErase m k else sparseInsert m k v

/-- Every key of the list lies above `k`. -/
def sparseAbove {α : Type} (k : Nat) (m : List (Nat × α)) : Bool := m.all (fun e => decide (k < e.1))

/-- The canonical form: keys strictly rising, no entry equal to what an unlisted key reads as. -/
def sparseWf {α : Type} [DecidableEq α] (d : Nat → α) (m : List (Nat × α)) : Bool :=
  match m with
  | [] => true
  | (k, v) :: t => decide (v ≠ d k) && sparseAbove k t && sparseWf d t

/-! ### RAM (40_bus_memory.md R136, R137) -/

/-- What an unlisted address of RAM reads as: its initial contents (10_state.md R54; log 6). -/
def Memory.initial (a : Nat) : Byte := Config.ramInit (a - Config.ramBase)

/-- Every listed address is an address of RAM. -/
def Memory.inRam (m : Memory) : Bool :=
  m.all (fun e => decide (Config.ramBase ≤ e.1) && decide (e.1 < Config.ramBase + Config.ramSize))

/-- The canonical form of RAM. -/
def Memory.wf (m : Memory) : Bool := sparseWf Memory.initial m && Memory.inRam m

/-- The byte at an absolute address. -/
def Memory.readByte (m : Memory) (a : Nat) : Byte := sparseGet Memory.initial m a

/-- The byte at an absolute address, replaced. -/
def Memory.writeByte (m : Memory) (a : Nat) (b : Byte) : Memory := sparseSet Memory.initial m a b

/-- `MemRead(a, n)`, little-endian (R136). -/
def Memory.read (m : Memory) (a n : Nat) : Carrier :=
  match n with
  | 0 => 0#64
  | n + 1 => joinByte (m.readByte a) (Memory.read m (a + 1) n)

/-- `MemWrite(a, n, v)`, little-endian (R137). -/
def Memory.write (m : Memory) (a n : Nat) (v : Carrier) : Memory :=
  match n with
  | 0 => m
  | n + 1 => Memory.write (m.writeByte a (lowByte v)) (a + 1) n (v >>> 8)

/-- The absolute address of an offset into RAM (20_memory.md R72). -/
def ramAddress (o : BitVec Config.ramOffBits) : Nat := Config.ramBase + o.toNat

/-- The access runs past the end of RAM (20_memory.md R73). -/
def pastRam (w : Width) (o : BitVec Config.ramOffBits) : Bool := decide (Config.ramSize < o.toNat + w.bytes)

/-! ### The pixel buffer (43_soc_aux.md R256, R257) -/

/-- What an unlisted word of the pixel buffer reads as (10_state.md R57). -/
def PixMem.initial (_ : Nat) : Word := 0#32

/-- Every listed index is a word of the buffer (10_state.md R44). -/
def PixMem.inBuffer (m : PixMem) : Bool := m.all (fun e => decide (e.1 < Config.pixWords))

/-- The canonical form of the pixel buffer. -/
def PixMem.wf (m : PixMem) : Bool := sparseWf PixMem.initial m && PixMem.inBuffer m

def PixMem.readWord (m : PixMem) (j : Nat) : Word := sparseGet PixMem.initial m j
def PixMem.writeWord (m : PixMem) (j : Nat) (v : Word) : PixMem := sparseSet PixMem.initial m j v

/-! ### The PLIC (41_plic.md section 1) -/

/-- The state of a context. -/
def Plic.ctx (p : Plic) (c : Context) : PlicCtx :=
  match c with
  | .machine => p.m
  | .supervisor => p.s

/-- The state of a context, replaced. -/
def Plic.withCtx (p : Plic) (c : Context) (x : PlicCtx) : Plic :=
  match c with
  | .machine => { p with m := x }
  | .supervisor => { p with s := x }

/-- `plic.prio[i]`; source-id 0 has none (10_state.md R24), and 0 stands for "never interruptable". -/
def Plic.prioOf (p : Plic) (i : Nat) : Word :=
  match i with
  | 0 => 0#32
  | k + 1 => (p.prio[k]?).getD 0#32

/-- `plic.prio[i] <- v`; there is nothing to assign at source-id 0. -/
def Plic.setPrio (p : Plic) (i : Nat) (v : Word) : Plic :=
  match i with
  | 0 => p
  | k + 1 => { p with prio := p.prio.setIfInBounds k v }

/-- Enabled for `c`, pending, and not claimed by `c` (R160). -/
def Plic.candidate (p : Plic) (c : Context) (i : Nat) : Bool :=
  (p.ctx c).en.getLsbD i && p.pend.getLsbD i && !(p.ctx c).claimed.getLsbD i

/-- The scan of R160 over the `n` highest source-ids, `NSRC - n` to `NSRC - 1` ascending: `id` is the best
found so far and `best` the priority to beat. -/
def Plic.scan (p : Plic) (c : Context) (n : Nat) (id : Nat) (best : Word) : Nat :=
  match n with
  | 0 => id
  | n + 1 =>
    if p.candidate c (Config.nSrc - 1 - n) && best.ult (p.prioOf (Config.nSrc - 1 - n)) then
      Plic.scan p c n (Config.nSrc - 1 - n) (p.prioOf (Config.nSrc - 1 - n))
    else
      Plic.scan p c n id best

/-- `best(c)` (R160): the source-id context `c` would claim now, or 0. -/
def Plic.best (p : Plic) (c : Context) : Nat := p.scan c (Config.nSrc - 1) 0 (p.ctx c).thr

/-- `irq(source_id, level)` (R161). -/
def Plic.irq (p : Plic) (i : Nat) (level : Bool) : Plic :=
  if p.pend.getLsbD i = level then p
  else { p with pend := setBit p.pend i level, upd := true }

/-- `check_interrupt()` (R162): the answer, and the PLIC after it. Only context 0 drives the output. -/
def Plic.checkInterrupt (p : Plic) : Option Bool × Plic :=
  if p.upd then (some (p.best .machine != 0), p.setUpd false) else (none, p)

/-- `claim(c)` (R163): interrupt entry's part in the block (60_exceptions.md R310). -/
def Plic.claim (p : Plic) (c : Context) : Nat × Plic :=
  let id := p.best c
  if id = 0 then (0, p)
  else
    (id, ({ p with pend := setBit p.pend id false, upd := true }).withCtx c
      { p.ctx c with claimed := setBit (p.ctx c).claimed id true })

/-- `complete(c, source_id)` (R164): interrupt return's part in the block (60_exceptions.md R311). -/
def Plic.complete (p : Plic) (c : Context) (source : Word) : Plic :=
  if source.toNat < Config.nSrc then
    p.withCtx c { p.ctx c with claimed := setBit (p.ctx c).claimed source.toNat false }
  else p

/-- The enable word of a context, replaced (R170). -/
def Plic.setEnable (p : Plic) (c : Context) (w : Nat) (v : Word) : Plic :=
  p.withCtx c { p.ctx c with en := setBitmapWord (p.ctx c).en w v }

/-- The threshold of a context, replaced (R172). -/
def Plic.setThreshold (p : Plic) (c : Context) (v : Word) : Plic :=
  p.withCtx c { p.ctx c with thr := v }

/-- The drain of a tick's collector, last appended first (40_bus_memory.md R133). -/
def Plic.drain (p : Plic) (collector : List IrqEvent) : Plic :=
  collector.foldr (fun e p => p.irq e.source.val e.level) p

/-! ### The UART (42_uart.md R201, R203, R221) -/

/-- A byte appended to the transmitted stream; `printed` remembers it (10_state.md R42; log 12). -/
def Uart.sendOut (u : Uart) (b : Byte) : Uart :=
  { u with txq := u.txq ++ [b], printed := u.printed ++ [b] }

/-- A byte appended to the receive stream. -/
def Uart.receive (u : Uart) (b : Byte) : Uart := { u with rxq := u.rxq ++ [b] }

/-- The data-register read (R201): the byte returned and the UART after it. -/
def Uart.readData (u : Uart) : Byte × Uart :=
  if u.bi then (0#8, u)
  else
    match u.rxq with
    | [] => (0#8, u)
    | b :: rest =>
      let u := { u.setOe false with rxq := rest }
      (b, if Config.uartRbrClearsDr && rest.isEmpty then u.setDr false else u)

/-- The data-register write (R203). -/
def Uart.writeData (u : Uart) (v : Byte) : Uart :=
  if !u.fen && u.dr then u.setOe true
  else if u.loop then u.setTxReady.receive v
  else u.setTxReady.sendOut v

/-- R221 step 1: data ready. -/
def Uart.clkDataReady (u : Uart) : Uart := if u.rxq.isEmpty then u else u.setDr true

/-- R221 step 2: the clear-receive request in line control. -/
def Uart.clkClearRx (u : Uart) : Uart :=
  if u.clrRx then ({ u with rxq := [] }.setDr false).setClrRx false else u

/-- R221 step 3: the clear-transmit request in line control. -/
def Uart.clkClearTx (u : Uart) : Uart := if u.clrTx then (u.setClrTx false).setTxReady else u

/-- R221 step 4, the register: identification recomputed. -/
def Uart.clkIdentify (u : Uart) : Uart := { u with iir := u.identification }

/-- R221 step 5: without the transmit interrupt the port is always ready. -/
def Uart.clkForceReady (u : Uart) : Uart := if u.etx then u else u.setTxReady

/-- Steps 1 to 3 of R221: the UART as step 4 finds it. -/
def Uart.clkServe (u : Uart) : Uart := u.clkDataReady.clkClearRx.clkClearTx

/-- `UART.clk` (R221): the UART after a driven tick. -/
def Uart.clk (u : Uart) : Uart := u.clkServe.clkIdentify.clkForceReady

/-- The one event `UART.clk` emits (R221 step 4): the line's level as steps 1 to 3 leave it. -/
def Uart.clkEvent (u : Uart) : IrqEvent := { source := Config.uartIrq, level := u.clkServe.line }

/-! ### The SoC-auxiliary device (43_soc_aux.md R253 to R258) -/

/-- The keyboard read (R254): the word returned and the device after it. -/
def Soc.readKey (d : Soc) : Word × Soc :=
  match d.kbd with
  | [] => (0#32, d)
  | k :: rest => (k, { d with kbd := rest })

/-- A present request (R253): counted, with the pixel buffer as it is now (log 12). -/
def Soc.present (d : Soc) : Soc :=
  { d with presents := d.presents + 1, frames := d.frames ++ [d.pix] }

/-- A poweroff request sent, if one was written (R258). -/
def Soc.sendPoweroff (d : Soc) : Soc :=
  if d.poff then { d with cmdq := d.cmdq ++ [.poweroff], poff := false } else d

/-- `SOC.clk` (R258) with the key words the host supplied. -/
def Soc.clk (d : Soc) (keys : List Word) : Soc :=
  ({ d with kbd := d.kbd ++ keys }).sendPoweroff

/-! ### Channels (44_channel_host.md R280 to R283) -/

/-- The queue whose element a value is (R280). -/
def queueOf (v : ChanVal) : Queue :=
  match v with
  | .rxq _ => .rxq
  | .txq _ => .txq
  | .kbd _ => .kbd
  | .cmdq _ => .cmdq

/-- `q.push(v)` (R281). -/
def State.push (s : State) (v : ChanVal) : State :=
  match v with
  | .rxq b => s.withUart (s.uart.receive b)
  | .txq b => s.withUart (s.uart.sendOut b)
  | .kbd k => s.withSoc { s.soc with kbd := s.soc.kbd ++ [k] }
  | .cmdq c => s.withSoc { s.soc with cmdq := s.soc.cmdq ++ [c] }

/-- The values a queue holds, head first (R280). -/
def State.queue (s : State) (q : Queue) : List ChanVal :=
  match q with
  | .rxq => s.uart.rxq.map .rxq
  | .txq => s.uart.txq.map .txq
  | .kbd => s.soc.kbd.map .kbd
  | .cmdq => s.soc.cmdq.map .cmdq

/-- A queue without its head. -/
def State.dropHead (s : State) (q : Queue) : State :=
  match q with
  | .rxq => s.withUart { s.uart with rxq := s.uart.rxq.tail }
  | .txq => s.withUart { s.uart with txq := s.uart.txq.tail }
  | .kbd => s.withSoc { s.soc with kbd := s.soc.kbd.tail }
  | .cmdq => s.withSoc { s.soc with cmdq := s.soc.cmdq.tail }

/-- `q.pop()` (R282): the head, answered; on an empty queue the step is not enabled and its agent waits
(R284; log 8). -/
def State.pop (s : State) (q : Queue) : State :=
  match s.queue q with
  | [] => s.respond .waits
  | v :: _ => (s.dropHead q).respond (.received v)

/-- `q.nonempty()` (R283). -/
def State.nonempty (s : State) (q : Queue) : Bool := !(s.queue q).isEmpty

/-- `q.clear()` (R283). -/
def State.clear (s : State) (q : Queue) : State :=
  match q with
  | .rxq => s.withUart { s.uart with rxq := [] }
  | .txq => s.withUart { s.uart with txq := [] }
  | .kbd => s.withSoc { s.soc with kbd := [] }
  | .cmdq => s.withSoc { s.soc with cmdq := [] }

/-! ### The Bus's clock (40_bus_memory.md R132, R133) -/

/-- `RAM.clk(collector)` does nothing (R138). -/
def State.ramClk (s : State) (collector : List IrqEvent) : State × List IrqEvent := (s, collector)

/-- `PLIC.clk(collector)` does nothing (41_plic.md R178). -/
def State.plicClk (s : State) (collector : List IrqEvent) : State × List IrqEvent := (s, collector)

/-- `UART.clk(collector)` (42_uart.md R221): exactly one event appended. -/
def State.uartClk (s : State) (collector : List IrqEvent) : State × List IrqEvent :=
  (s.withUart s.uart.clk, collector ++ [s.uart.clkEvent])

/-- `SOC.clk(collector)` (43_soc_aux.md R258): takes the supplied key words, appends no event (R259). -/
def State.socClk (s : State) (collector : List IrqEvent) : State × List IrqEvent :=
  ({ s with soc := s.soc.clk s.hostKeys, hostKeys := [] }, collector)

/-- The collector drained into the PLIC (R133). -/
def State.drain (s : State) (collector : List IrqEvent) : State :=
  s.withPlic (s.plic.drain collector)

/-- A driven tick: every device clocked in the order of R132, then the drain. -/
def State.drivenTick (s : State) : State :=
  let (s, col) := s.ramClk []
  let (s, col) := s.plicClk col
  let (s, col) := s.uartClk col
  let (s, col) := s.socClk col
  s.drain col

/-- `Bus.clk()` (R132). -/
def State.busClk (s : State) : State :=
  if s.bus.div + 1 = Config.clkDiv then (s.withBus { div := 0 }).drivenTick
  else s.withBus { div := s.bus.div + 1 }

/-! ### The host's inputs -/

/-- The wall clock's next value (43_soc_aux.md R251, 30_encoding.md R103 HOST.NOW): a fresh free value. -/
def State.wallClock (s : State) : Carrier := Config.wallClock s.clockDraws

/-- A value of the wall clock has been drawn (log 3). -/
def State.clockDrawn (s : State) : State := { s with clockDraws := s.clockDraws + 1 }

/-- The host supplies key words for the next driven tick (R258; log 4). -/
def State.supplyKeys (s : State) (ks : List Word) : State := { s with hostKeys := s.hostKeys ++ ks }

/-! ### A request that selects nothing, and the next request -/

/-- What a request that selects no operation comes to: the three causes of R109 are the access fault,
answered to the caller; the others are no request an agent can make (log 9, log 10). -/
def State.reject (s : State) (r : Reject) : Host.Outcome State Fault Refusal :=
  match r with
  | .noRange | .badWidth | .gap => .next s.raiseAccessFault
  | .noSuchContext => .refused .noSuchContext
  | .noSuchSource => .refused .noSuchSource
  | .irqCollision => .refused .irqCollision
  | .zeroKeyWord => .fault .zeroKeyWord

/-- The next request and the state without it (log 1). -/
def State.fetch (s : State) : Option (Request × State) :=
  match s.trace with
  | [] => none
  | r :: rest => some (r, { s with trace := rest })

/-- The state with a request put first (log 1). -/
def State.issue (s : State) (r : Request) : State := { s with trace := r :: s.trace }

end Sys2Proof.Machine
end

