-- ==== Sys2Proof/Machine/Bus.lean ====
section
/-!
DEFINITION. The meanings of the Bus operations CLK, POLL and Bus.drain (40_bus_memory.md R132 to R134).
-/
namespace Sys2Proof.Machine

/-- CLK, `Bus.clk()` (R132): returns nothing and cannot fail. -/
def execClk (s : State) : Host.Outcome State Fault Refusal :=
  .next (s.busClk.respond .nothing)

/-- POLL, `Bus.interrupt()` (R134). -/
def execPoll (s : State) : Host.Outcome State Fault Refusal :=
  .next ((s.withPlic s.plic.checkInterrupt.2).respond (.level s.plic.checkInterrupt.1))

/-- Bus.drain (R133): the collected events applied to the PLIC, last appended first. -/
def execBusDrain (collector : List IrqEvent) (s : State) : Host.Outcome State Fault Refusal :=
  .next ((s.drain collector).respond .nothing)

end Sys2Proof.Machine
end

