-- ==== Sys2Proof/Machine/Channel.lean ====
section
/-!
DEFINITION. The meanings of the Channel operations (44_channel_host.md R281 to R283).
-/
namespace Sys2Proof.Machine

/-- Channel.push (R281): never blocks, visible at once. -/
def execChannelPush (v : ChanVal) (s : State) : Host.Outcome State Fault Refusal :=
  .next ((s.push v).respond .nothing)

/-- Channel.pop (R282): the head, or a wait on an empty queue (log 8). -/
def execChannelPop (q : Queue) (s : State) : Host.Outcome State Fault Refusal :=
  .next (s.pop q)

/-- Channel.nonempty (R283). -/
def execChannelNonempty (q : Queue) (s : State) : Host.Outcome State Fault Refusal :=
  .next (s.respond (.available (s.nonempty q)))

/-- Channel.clear (R283). -/
def execChannelClear (q : Queue) (s : State) : Host.Outcome State Fault Refusal :=
  .next ((s.clear q).respond .nothing)

end Sys2Proof.Machine
end

