-- ==== Sys2Proof/Machine/HostOps.lean ====
section
/-!
DEFINITION. The meanings of the host operations (44_channel_host.md R285 to R287; 43_soc_aux.md R251, R258).
-/
namespace Sys2Proof.Machine

/-- HOST.RX (R285): a byte pushed into the UART's receive stream; no register changes. -/
def execHostRx (b : Byte) (s : State) : Host.Outcome State Fault Refusal :=
  .next ((s.push (.rxq b)).respond .nothing)

/-- HOST.TX (R286): one transmitted byte taken, or the host waits (log 8). -/
def execHostTx (s : State) : Host.Outcome State Fault Refusal :=
  .next (s.pop .txq)

/-- HOST.CMD (R287): one poweroff command taken, or the host waits (log 8). Taking it is where a run ends
(60_exceptions.md R320, 70_reset_and_hazards.md R351: `endsRun`, `runProgram`); the block itself does not halt,
and neither does this meaning: what the trace holds next is served as usual (log 20, a choice of the model). -/
def execHostCmd (s : State) : Host.Outcome State Fault Refusal :=
  .next (s.pop .cmdq)

/-- HOST.KEYS (30_encoding.md R103, 43_soc_aux.md R258): key words supplied for the next driven tick (log 4). -/
def execHostKeys (ks : List Word) (s : State) : Host.Outcome State Fault Refusal :=
  .next ((s.supplyKeys ks).respond .nothing)

/-- HOST.NOW (30_encoding.md R103, 43_soc_aux.md R251): the host says what its clock reads (log 3). -/
def execHostNow (s : State) : Host.Outcome State Fault Refusal :=
  .next (s.clockDrawn.respond (.now s.wallClock))

end Sys2Proof.Machine
end

