-- ==== Sys2Proof/Machine/Plic.lean ====
section
/-!
DEFINITION. The meanings of the PLIC registers and internal operations (41_plic.md R160 to R174, R178).
-/
namespace Sys2Proof.Machine

/-- PLIC.PRIO.R (R165); source-id 0 has no priority register (R176). -/
def execPlicPrioR (i : SourceId) (s : State) : Host.Outcome State Fault Refusal :=
  .next (if i = 0 then s.raiseAccessFault else s.readAnswer (s.plic.prioOf i.val))

/-- PLIC.PRIO.W (R166): all 32 bits stored; source-id 0 has no priority register (R176). -/
def execPlicPrioW (i : SourceId) (v : Word) (s : State) : Host.Outcome State Fault Refusal :=
  .next (if i = 0 then s.raiseAccessFault
    else (s.withPlic (s.plic.setPrio i.val v)).respond .done)

/-- PLIC.PEND.R (R167). -/
def execPlicPendR (w : Fin 32) (s : State) : Host.Outcome State Fault Refusal :=
  .next (s.readAnswer (bitmapWord s.plic.pend w.val))

/-- PLIC.PEND.W (R168): the access fault, no state change, whatever the word and the value. -/
def execPlicPendW (_w : Fin 32) (_v : Word) (s : State) : Host.Outcome State Fault Refusal :=
  .next s.raiseAccessFault

/-- PLIC.EN.R (R169). -/
def execPlicEnR (c : Context) (w : Fin 32) (s : State) : Host.Outcome State Fault Refusal :=
  .next (s.readAnswer (bitmapWord (s.plic.ctx c).en w.val))

/-- PLIC.EN.W (R170): all 32 bits of the word replaced. -/
def execPlicEnW (c : Context) (w : Fin 32) (v : Word) (s : State) :
    Host.Outcome State Fault Refusal :=
  .next ((s.withPlic (s.plic.setEnable c w.val v)).respond .done)

/-- PLIC.THR.R (R171). -/
def execPlicThrR (c : Context) (s : State) : Host.Outcome State Fault Refusal :=
  .next (s.readAnswer (s.plic.ctx c).thr)

/-- PLIC.THR.W (R172): all 32 bits stored. -/
def execPlicThrW (c : Context) (v : Word) (s : State) : Host.Outcome State Fault Refusal :=
  .next ((s.withPlic (s.plic.setThreshold c v)).respond .done)

/-- PLIC.CLAIM.R (R173): `zext_32(claim(c))`. -/
def execPlicClaimR (c : Context) (s : State) : Host.Outcome State Fault Refusal :=
  .next ((s.withPlic (s.plic.claim c).2).readAnswer (BitVec.ofNat 32 (s.plic.claim c).1))

/-- PLIC.COMPLETE.W (R174): `complete(c, v)`; no value faults. -/
def execPlicCompleteW (c : Context) (v : Word) (s : State) : Host.Outcome State Fault Refusal :=
  .next ((s.withPlic (s.plic.complete c v)).respond .done)

/-- PLIC.best (R160), applied directly (30_encoding.md R112). -/
def execPlicBest (c : Context) (s : State) : Host.Outcome State Fault Refusal :=
  .next (s.respond (.source (s.plic.best c)))

/-- PLIC.irq (R161), applied directly. -/
def execPlicIrq (source : SourceId) (level : Bool) (s : State) : Host.Outcome State Fault Refusal :=
  .next ((s.withPlic (s.plic.irq source.val level)).respond .nothing)

/-- PLIC.check_interrupt (R162), applied directly. -/
def execPlicCheckInterrupt (s : State) : Host.Outcome State Fault Refusal :=
  .next ((s.withPlic s.plic.checkInterrupt.2).respond (.level s.plic.checkInterrupt.1))

/-- PLIC.claim (R163), applied directly. -/
def execPlicClaim (c : Context) (s : State) : Host.Outcome State Fault Refusal :=
  .next ((s.withPlic (s.plic.claim c).2).respond (.source (s.plic.claim c).1))

/-- PLIC.complete (R164), applied directly. -/
def execPlicComplete (c : Context) (source : Word) (s : State) : Host.Outcome State Fault Refusal :=
  .next ((s.withPlic (s.plic.complete c source)).respond .nothing)

/-- PLIC.clk (R178): nothing happens; the collector comes back as it was. -/
def execPlicClk (collector : List IrqEvent) (s : State) : Host.Outcome State Fault Refusal :=
  .next ((s.plicClk collector).1.respond (.collected (s.plicClk collector).2))

end Sys2Proof.Machine
end

