-- ==== Sys2Proof/Machine/Ram.lean ====
section
/-!
DEFINITION. The meanings of the RAM operations (40_bus_memory.md R136 to R138).
-/
namespace Sys2Proof.Machine

/-- RAM.R (R136): little-endian, any alignment; an access past the end of RAM faults. -/
def execRamR (w : Width) (o : BitVec Config.ramOffBits) (s : State) : Host.Outcome State Fault Refusal :=
  .next (if pastRam w o then s.raiseAccessFault
    else s.readAnswer (s.ram.read (ramAddress o) w.bytes))

/-- RAM.W (R137): little-endian, any alignment; an access past the end of RAM writes no byte and faults. -/
def execRamW (w : Width) (o : BitVec Config.ramOffBits) (v : Carrier) (s : State) :
    Host.Outcome State Fault Refusal :=
  .next (if pastRam w o then s.raiseAccessFault
    else (s.withRam (s.ram.write (ramAddress o) w.bytes v)).respond .done)

/-- RAM.clk (R138): nothing happens; the collector comes back as it was. -/
def execRamClk (collector : List IrqEvent) (s : State) : Host.Outcome State Fault Refusal :=
  .next ((s.ramClk collector).1.respond (.collected (s.ramClk collector).2))

end Sys2Proof.Machine
end

