-- ==== Sys2Proof/Machine/Soc.lean ====
section
/-!
DEFINITION. The meanings of the SoC-auxiliary registers (43_soc_aux.md R251 to R257) and of SOC.clk (R258).
-/
namespace Sys2Proof.Machine

/-- SOC.TIME.R (R251): a fresh value of the wall clock; no state of the block changes (log 3). -/
def execSocTimeR (s : State) : Host.Outcome State Fault Refusal :=
  .next (s.clockDrawn.readAnswer s.wallClock)

/-- SOC.FBCTL_LO.R (R252): the fixed geometry word. -/
def execSocFbctlLoR (s : State) : Host.Outcome State Fault Refusal :=
  .next (s.readAnswer Config.fbGeometry)

/-- SOC.FBCTL_HI.W (R253): one present request, whatever the value. -/
def execSocFbctlHiW (_v : Word) (s : State) : Host.Outcome State Fault Refusal :=
  .next ((s.withSoc s.soc.present).respond .done)

/-- SOC.KBD.R (R254): the head of the keyboard FIFO, consumed, or 0. -/
def execSocKbdR (s : State) : Host.Outcome State Fault Refusal :=
  .next ((s.withSoc s.soc.readKey.2).readAnswer s.soc.readKey.1)

/-- SOC.POWEROFF.W (R255): the request latched, whatever the value. -/
def execSocPoweroffW (_v : Byte) (s : State) : Host.Outcome State Fault Refusal :=
  .next ((s.withSoc { s.soc with poff := true }).respond .done)

/-- SOC.PIX.R (R256); no word beyond the buffer exists (R250). -/
def execSocPixR (j : Nat) (s : State) : Host.Outcome State Fault Refusal :=
  .next (if j < Config.pixWords then s.readAnswer (s.soc.pix.readWord j) else s.raiseAccessFault)

/-- SOC.PIX.W (R257): all 32 bits stored; no word beyond the buffer exists (R250). -/
def execSocPixW (j : Nat) (v : Word) (s : State) : Host.Outcome State Fault Refusal :=
  .next (if j < Config.pixWords then
      (s.withSoc { s.soc with pix := s.soc.pix.writeWord j v }).respond .done
    else s.raiseAccessFault)

/-- SOC.clk (R258) by itself: the supplied key words taken, a latched poweroff sent, no event appended
(R259; log 11). -/
def execSocClk (collector : List IrqEvent) (s : State) : Host.Outcome State Fault Refusal :=
  .next ((s.socClk collector).1.respond (.collected (s.socClk collector).2))

end Sys2Proof.Machine
end

