-- ==== Sys2Proof/Machine/Uart.lean ====
section
/-!
DEFINITION. The meanings of the UART registers (42_uart.md R201 to R220) and of UART.clk (R221).
-/
namespace Sys2Proof.Machine

/-- UART.RBR.R (R201): may pop a byte and clear `OE`. -/
def execUartRbrR (s : State) : Host.Outcome State Fault Refusal :=
  .next ((s.withUart s.uart.readData.2).readAnswer s.uart.readData.1)

/-- UART.DLL.R (R202): nothing is popped. -/
def execUartDllR (s : State) : Host.Outcome State Fault Refusal :=
  .next (s.readAnswer s.uart.dll)

/-- UART.THR.W (R203): dropped with `OE` set, looped back, or sent out. -/
def execUartThrW (v : Byte) (s : State) : Host.Outcome State Fault Refusal :=
  .next ((s.withUart (s.uart.writeData v)).respond .done)

/-- UART.DLL.W (R204): nothing is transmitted. -/
def execUartDllW (v : Byte) (s : State) : Host.Outcome State Fault Refusal :=
  .next ((s.withUart { s.uart with dll := v }).respond .done)

/-- UART.IER.R (R205). -/
def execUartIerR (s : State) : Host.Outcome State Fault Refusal :=
  .next (s.readAnswer s.uart.ier)

/-- UART.IER.W (R206): the low 4 bits stored; the line changes at the next driven tick only. -/
def execUartIerW (v : Byte) (s : State) : Host.Outcome State Fault Refusal :=
  .next ((s.withUart { s.uart with ier := v &&& Config.uartIerMask }).respond .done)

/-- UART.DLH.R (R207). -/
def execUartDlhR (s : State) : Host.Outcome State Fault Refusal :=
  .next (s.readAnswer s.uart.dlh)

/-- UART.DLH.W (R208): all 8 bits stored. -/
def execUartDlhW (v : Byte) (s : State) : Host.Outcome State Fault Refusal :=
  .next ((s.withUart { s.uart with dlh := v }).respond .done)

/-- UART.IIR.R (R209): the value of the last driven tick; the read changes nothing. -/
def execUartIirR (s : State) : Host.Outcome State Fault Refusal :=
  .next (s.readAnswer s.uart.iir)

/-- UART.FCR.W (R210): all 8 bits stored, no clear requested. -/
def execUartFcrW (v : Byte) (s : State) : Host.Outcome State Fault Refusal :=
  .next ((s.withUart { s.uart with fcr := v }).respond .done)

/-- UART.LCR.R (R211). -/
def execUartLcrR (s : State) : Host.Outcome State Fault Refusal :=
  .next (s.readAnswer s.uart.lcr)

/-- UART.LCR.W (R212): all 8 bits stored. -/
def execUartLcrW (v : Byte) (s : State) : Host.Outcome State Fault Refusal :=
  .next ((s.withUart { s.uart with lcr := v }).respond .done)

/-- UART.MCR.R (R213). -/
def execUartMcrR (s : State) : Host.Outcome State Fault Refusal :=
  .next (s.readAnswer s.uart.mcr)

/-- UART.MCR.W (R214): the low 5 bits stored. -/
def execUartMcrW (v : Byte) (s : State) : Host.Outcome State Fault Refusal :=
  .next ((s.withUart { s.uart with mcr := v &&& Config.uartMcrMask }).respond .done)

/-- UART.LSR.R (R215): the read clears no bit. -/
def execUartLsrR (s : State) : Host.Outcome State Fault Refusal :=
  .next (s.readAnswer s.uart.lsr)

/-- UART.LSR.W (R216): the access fault, no state change, whatever the value. -/
def execUartLsrW (_v : Byte) (s : State) : Host.Outcome State Fault Refusal :=
  .next s.raiseAccessFault

/-- UART.MSR.R (R217): always 0. -/
def execUartMsrR (s : State) : Host.Outcome State Fault Refusal :=
  .next (s.readAnswer 0#8)

/-- UART.MSR.W (R218): the access fault, no state change, whatever the value. -/
def execUartMsrW (_v : Byte) (s : State) : Host.Outcome State Fault Refusal :=
  .next s.raiseAccessFault

/-- UART.SCR.R (R219). -/
def execUartScrR (s : State) : Host.Outcome State Fault Refusal :=
  .next (s.readAnswer s.uart.scr)

/-- UART.SCR.W (R220): all 8 bits stored. -/
def execUartScrW (v : Byte) (s : State) : Host.Outcome State Fault Refusal :=
  .next ((s.withUart { s.uart with scr := v }).respond .done)

/-- UART.clk (R221) by itself: the UART after the tick, and the collector with its one event appended
(log 11). -/
def execUartClk (collector : List IrqEvent) (s : State) : Host.Outcome State Fault Refusal :=
  .next ((s.uartClk collector).1.respond (.collected (s.uartClk collector).2))

end Sys2Proof.Machine
end

