-- ==== Sys2Proof/Machine/Dispatch.lean ====
section
/-!
DEFINITION. The dispatch: one arm per operation, each one call of its meaning.
-/
namespace Sys2Proof.Machine

def exec (i : Instr) (s : State) : Host.Outcome State Fault Refusal :=
  match i with
  | .clk => Sys2Proof.Machine.execClk s
  | .poll => Sys2Proof.Machine.execPoll s
  | .ramR w o => Sys2Proof.Machine.execRamR w o s
  | .ramW w o v => Sys2Proof.Machine.execRamW w o v s
  | .plicPrioR source => Sys2Proof.Machine.execPlicPrioR source s
  | .plicPrioW source v => Sys2Proof.Machine.execPlicPrioW source v s
  | .plicPendR w => Sys2Proof.Machine.execPlicPendR w s
  | .plicPendW w v => Sys2Proof.Machine.execPlicPendW w v s
  | .plicEnR c w => Sys2Proof.Machine.execPlicEnR c w s
  | .plicEnW c w v => Sys2Proof.Machine.execPlicEnW c w v s
  | .plicThrR c => Sys2Proof.Machine.execPlicThrR c s
  | .plicThrW c v => Sys2Proof.Machine.execPlicThrW c v s
  | .plicClaimR c => Sys2Proof.Machine.execPlicClaimR c s
  | .plicCompleteW c v => Sys2Proof.Machine.execPlicCompleteW c v s
  | .uartRbrR => Sys2Proof.Machine.execUartRbrR s
  | .uartDllR => Sys2Proof.Machine.execUartDllR s
  | .uartThrW v => Sys2Proof.Machine.execUartThrW v s
  | .uartDllW v => Sys2Proof.Machine.execUartDllW v s
  | .uartIerR => Sys2Proof.Machine.execUartIerR s
  | .uartIerW v => Sys2Proof.Machine.execUartIerW v s
  | .uartDlhR => Sys2Proof.Machine.execUartDlhR s
  | .uartDlhW v => Sys2Proof.Machine.execUartDlhW v s
  | .uartIirR => Sys2Proof.Machine.execUartIirR s
  | .uartFcrW v => Sys2Proof.Machine.execUartFcrW v s
  | .uartLcrR => Sys2Proof.Machine.execUartLcrR s
  | .uartLcrW v => Sys2Proof.Machine.execUartLcrW v s
  | .uartMcrR => Sys2Proof.Machine.execUartMcrR s
  | .uartMcrW v => Sys2Proof.Machine.execUartMcrW v s
  | .uartLsrR => Sys2Proof.Machine.execUartLsrR s
  | .uartLsrW v => Sys2Proof.Machine.execUartLsrW v s
  | .uartMsrR => Sys2Proof.Machine.execUartMsrR s
  | .uartMsrW v => Sys2Proof.Machine.execUartMsrW v s
  | .uartScrR => Sys2Proof.Machine.execUartScrR s
  | .uartScrW v => Sys2Proof.Machine.execUartScrW v s
  | .socTimeR => Sys2Proof.Machine.execSocTimeR s
  | .socFbctlLoR => Sys2Proof.Machine.execSocFbctlLoR s
  | .socFbctlHiW v => Sys2Proof.Machine.execSocFbctlHiW v s
  | .socKbdR => Sys2Proof.Machine.execSocKbdR s
  | .socPoweroffW v => Sys2Proof.Machine.execSocPoweroffW v s
  | .socPixR j => Sys2Proof.Machine.execSocPixR j s
  | .socPixW j v => Sys2Proof.Machine.execSocPixW j v s
  | .plicBest c => Sys2Proof.Machine.execPlicBest c s
  | .plicIrq source level => Sys2Proof.Machine.execPlicIrq source level s
  | .plicCheckInterrupt => Sys2Proof.Machine.execPlicCheckInterrupt s
  | .plicClaim c => Sys2Proof.Machine.execPlicClaim c s
  | .plicComplete c source => Sys2Proof.Machine.execPlicComplete c source s
  | .busDrain collector => Sys2Proof.Machine.execBusDrain collector s
  | .ramClk collector => Sys2Proof.Machine.execRamClk collector s
  | .plicClk collector => Sys2Proof.Machine.execPlicClk collector s
  | .uartClk collector => Sys2Proof.Machine.execUartClk collector s
  | .socClk collector => Sys2Proof.Machine.execSocClk collector s
  | .channelPush v => Sys2Proof.Machine.execChannelPush v s
  | .channelPop q => Sys2Proof.Machine.execChannelPop q s
  | .channelNonempty q => Sys2Proof.Machine.execChannelNonempty q s
  | .channelClear q => Sys2Proof.Machine.execChannelClear q s
  | .hostRx b => Sys2Proof.Machine.execHostRx b s
  | .hostTx => Sys2Proof.Machine.execHostTx s
  | .hostCmd => Sys2Proof.Machine.execHostCmd s
  | .hostKeys ks => Sys2Proof.Machine.execHostKeys ks s
  | .hostNow => Sys2Proof.Machine.execHostNow s

end Sys2Proof.Machine
end

