-- ==== Sys2Proof/Machine/Step.lean ====
section
/-!
DEFINITION. One step: the next operation of the trace, decoded and executed (10_state.md R21; log 1).
-/
namespace Sys2Proof.Machine

/-- One atomic step (20_memory.md R77, 44_channel_host.md R289): the next request of the trace is taken off
it, decoded with DLAB as it stands at the access (30_encoding.md R110), and executed. With no request the
block does nothing (60_exceptions.md R319; log 16). A step never ends a run, not even after HOST.CMD took a
Poweroff: where a run ends is `runProgram` (Machine/Run.lean; R320, R351; log 20, a choice of the model). -/
def step (s : State) : Host.Outcome State Fault Refusal :=
  match s.fetch with
  | none => .next s
  | some (r, t) =>
    match decode t.uart.dlab r with
    | .ok i => exec i t
    | .rejected e => t.reject e

/-- `s` with the operation of a table word as the next request (log 1, log 7). -/
def State.withFetchWord (s : State) (nbits w : Nat) : State := s.issue (tableRequest nbits w)

end Sys2Proof.Machine
end

