-- ==== Sys2Proof/Machine/Run.lean ====
section
/-!
DEFINITION. A run of a program and its end (60_exceptions.md R320, 70_reset_and_hazards.md R351), and the
block's own step relation, which leaves open every input that 10_state.md R61 says is not state.
-/
namespace Sys2Proof.Machine

/-! ### The end of a run -/

/-- The step that ends a run: HOST.CMD taking a Poweroff (R320 "A model should define the end of a run as the
host's `HOST.CMD` step"). A HOST.CMD that waits took nothing, and ends nothing (log 20). -/
def endsRun (r : Request) (a : Response) : Bool :=
  decide (r = .hostCmd) && decide (a = .received (.cmdq .poweroff))

/-- A run of a program, which is a trace of operations (00_scope.md R6) issued one after another: it "ends
where its trace ends or at the `HOST.CMD` step" (R351). What the program holds after that step is not run:
ending the run is the host's act, the block itself never ends one, and `step` goes on serving whatever is
issued (R320; log 20). -/
def runProgram (p : List Request) (s : State) : Host.Outcome State Fault Refusal :=
  match p with
  | [] => .next s
  | r :: rest =>
    match step (s.issue r) with
    | .next t => if endsRun r t.resp then .next t else runProgram rest t
    | .fault e => .fault e
    | .refused e => .refused e

/-! ### The block's step relation -/

/-- From block `b`, the operation `r` of some agent may answer `a` and leave block `b'`. What R61 keeps out of
the state is open here: which operation of which agent comes next (`r` is any), the host's bytes (in `r`), the
key words the host has for a tick (those of any `s` over `b`; R258, R288), and the wall clock (any value at
each reading; R251). -/
inductive BlockStep (b : Block) (r : Request) : Response → Block → Prop where
  /-- An operation, whatever the agents have in hand. -/
  | operation (s t : State) (block : s.toBlock = b) (keys : keyWords s.hostKeys = true)
      (run : step (s.issue r) = .next t) : BlockStep b r t.resp t.toBlock
  /-- A timer read answers any 64-bit value. -/
  | timer (now : Carrier) (select : decode b.uart.dlab r = .ok .socTimeR) : BlockStep b r (.value now) b
  /-- HOST.NOW answers any 64-bit value. -/
  | clock (now : Carrier) (select : decode b.uart.dlab r = .ok .hostNow) : BlockStep b r (.now now) b

end Sys2Proof.Machine
end

