-- ==== Sys2Proof/Safety.lean ====
section
/-!
DEFINITION. What counts as a safe run, in the terms the statements use: which requests the caller and the
host may issue, the invariant of the state, and the property of source-id 0.
-/
namespace Sys2Proof

/-- The caller's four formats (30_encoding.md R100). -/
def Request.fromCaller (r : Request) : Bool :=
  match r with
  | .read _ _ | .write _ _ _ | .clk | .poll => true
  | _ => false

/-- The host's formats (30_encoding.md R103), with the key words R288 allows. -/
def Request.fromHost (r : Request) : Bool :=
  match r with
  | .hostRx _ | .hostTx | .hostCmd | .hostNow => true
  | .hostKeys ks => keyWords ks
  | _ => false

/-- The request makes some device emit an Irq event for source-id 0 (10_state.md R60). -/
def Request.emitsSourceZero (r : Request) : Bool :=
  match r with
  | .plicIrq i _ => i == 0
  | .drain evs => evs.any (fun e => e.source == 0)
  | _ => false

/-- The READs that 20_memory.md R76 says change no state and answer the same when repeated: every READ but
the claim register, the data register, the keyboard and the timer. -/
def Instr.quietRead (i : Instr) : Bool :=
  match i with
  | .ramR _ _ | .plicPrioR _ | .plicPendR _ | .plicEnR _ _ | .plicThrR _ => true
  | .uartDllR | .uartIerR | .uartDlhR | .uartIirR | .uartLcrR | .uartMcrR | .uartLsrR | .uartMsrR
  | .uartScrR => true
  | .socFbctlLoR | .socPixR _ => true
  | _ => false

end Sys2Proof

namespace Sys2Proof.Machine

/-- The answers of operations executed one after another, up to the first that stops (the caller's and the
host's program order, 20_memory.md R78, R79). -/
def answers (is : List Instr) (s : State) : List Response :=
  match is with
  | [] => []
  | i :: rest =>
    match exec i s with
    | .next t => t.resp :: answers rest t
    | .fault _ => []
    | .refused _ => []

/-- What 10_state.md R59 says of the UART: `TEMT = THRE = 1`, line-status bits 7, 4, 3, 2 are 0, the masked
bits of `ier` and `mcr` are 0, `iir` is one of four values. -/
def Uart.statusOk (u : Uart) : Bool :=
  decide (u.lsr &&& 0xFC#8 = 0x60#8) && decide (u.ier &&& 0xF0#8 = 0x00#8) &&
  decide (u.mcr &&& 0xE0#8 = 0x00#8) && decide (u.iir ∈ [0x01#8, 0x02#8, 0x04#8, 0x06#8])

/-- What 10_state.md R60 says of source-id 0: never pending, never claimed. -/
def Plic.sourceZeroQuiet (p : Plic) : Bool :=
  !p.pend.getLsbD 0 && !p.m.claimed.getLsbD 0 && !p.s.claimed.getLsbD 0

/-- Source `i` is eligible for context `c` (41_plic.md R160, the set `E(c)`). -/
def Plic.Eligible (p : Plic) (c : Context) (i : Nat) : Prop :=
  1 ≤ i ∧ i < Config.nSrc ∧ (p.ctx c).en.getLsbD i = true ∧ p.pend.getLsbD i = true ∧
  (p.ctx c).claimed.getLsbD i = false ∧ (p.ctx c).thr < p.prioOf i

/-- The invariant every step keeps: the divider's range (R22), the canonical form of RAM and of the pixel
buffer, the UART's R59, the histories of log 12, and key words that are non-zero (R43). -/
structure State.Inv (s : State) : Prop where
  div_lt : s.bus.div < Config.clkDiv
  ram_wf : s.ram.wf = true
  uart_ok : s.uart.statusOk = true
  printed_suffix : s.uart.txq <:+ s.uart.printed
  kbd_words : keyWords s.soc.kbd = true
  host_keys : keyWords s.hostKeys = true
  pix_wf : s.soc.pix.wf = true
  frames_wf : s.soc.frames.all PixMem.wf = true
  presents_eq : s.soc.presents = s.soc.frames.length

end Sys2Proof.Machine
end

