-- ==== Sys2Proof/Certificates/Slice0/Obligations.lean ====
section
/-!
DEFINITION. The statements for the provers, one per entry of OBLIGATIONS.json. A statement that rests on a
point the spec marks as its own decision, derivation or general knowledge, or on a choice of the model, says
so in its docstring.
-/

open Sys2Proof Sys2Proof.Machine

/-- O1. Decoding the request an instruction encodes to gives the instruction back. Derived from the
register map of 30_encoding.md section 2 (R104 to R107), which the spec marks as resting on its
decisions D12, D14, D20, D32; the SoC layout is free (log 5). -/
def Obligations.DecodeOfEncodeIsTheInstruction : Prop :=
  ∀ (dlab : Bool) (i : Instr), i.wf = true → i.dlabOk dlab = true → decode dlab (encode i) = .ok i

/-- O2. The decoder gives only well-formed instructions whose DLAB condition holds. Derived from
30_encoding.md R109 and R113 ("A row applies when format, size, match under mask and `cond` all hold").
The condition that a collector is free of collisions rests on 40_bus_memory.md R133 (the spec's decision
D10) and that key words are non-zero on 44_channel_host.md R288; that the decoder refuses what fails
them is the MODEL'S CHOICE (log 9, log 10). -/
def Obligations.DecodedInstructionsAreWellFormed : Prop :=
  ∀ (dlab : Bool) (r : Request) (i : Instr), decode dlab r = .ok i →
    i.wf = true ∧ i.dlabOk dlab = true

/-- O3. A READ or WRITE selects the register at its own address and width and no other. Derived from
20_memory.md R72, R75 and 40_bus_memory.md R131; that an address of 2^32 or more is not truncated is the
spec's decision D42, and the truncation of the value its decision D2. -/
def Obligations.AddressesAreNeitherTruncatedNorAliased : Prop :=
  (∀ (dlab : Bool) (a n : Nat) (i : Instr), decode dlab (.read a n) = .ok i → encode i = .read a n) ∧
  (∀ (dlab : Bool) (a n : Nat) (v : Carrier) (i : Instr), decode dlab (.write a n v) = .ok i →
    ∃ v' : Carrier, encode i = .write a n v' ∧ v'.toNat = v.toNat % 2 ^ (8 * n))

/-- O4. Some accesses of the register map and the operations they select. A sanity statement on
addresses taken from 30_encoding.md R104, R105 and 95_test_vectors.md. -/
def Obligations.RegisterMapSelectsTheListedRegisters : Prop :=
  decode false (.read 0x0C000014 4) = .ok (.plicPrioR 5) ∧
  decode false (.write 0x0C0020FC 4 0x80000000#64) = .ok (.plicEnW .supervisor 31 0x80000000#32) ∧
  decode false (.read 0x0C200004 4) = .ok (.plicClaimR .machine) ∧
  decode false (.write 0x0C201004 4 5#64) = .ok (.plicCompleteW .supervisor 5#32) ∧
  decode false (.read 0x10000000 1) = .ok .uartRbrR ∧
  decode true (.read 0x10000000 1) = .ok .uartDllR ∧
  decode false (.read 0xBFFFFFFF 1) = .ok (.ramR .w1 0x3FFFFFFF#30)

/-- O5. A step runs the operation that the next request selects. Derived from 10_state.md R21,
30_encoding.md R109 and 60_exceptions.md R319; that operations wait in a trace is the model's choice
(log 1, log 16). -/
def Obligations.StepRunsTheDecodedInstruction : Prop :=
  (∀ (s : State) (r : Request) (rest : List Request) (i : Instr), s.trace = r :: rest →
    decode s.uart.dlab r = .ok i → step s = exec i { s with trace := rest }) ∧
  (∀ (s : State) (r : Request) (rest : List Request) (e : Reject), s.trace = r :: rest →
    decode s.uart.dlab r = .rejected e → e = .noRange ∨ e = .badWidth ∨ e = .gap →
    step s = .next { s with trace := rest, resp := .accessFault }) ∧
  (∀ s : State, s.trace = [] → step s = .next s)

/-- O6. Every address belongs to the device whose range holds it, or to none. Derived from the ranges of
20_memory.md R71 and from R72: that an address of 2^32 or more matches no range is its clause that the
spec marks as its decision D42. -/
def Obligations.RouteFollowsTheAddressMap : Prop :=
  ∀ a : Nat,
    (route a = some .plic ↔ 0x0C000000 ≤ a ∧ a ≤ 0x0FFFFFFF) ∧
    (route a = some .uart ↔ 0x10000000 ≤ a ∧ a ≤ 0x10000007) ∧
    (route a = some .soc ↔ 0x20000000 ≤ a ∧ a ≤ 0x2FFFFFFF) ∧
    (route a = some .ram ↔ 0x80000000 ≤ a ∧ a ≤ 0xBFFFFFFF) ∧
    (route a = none ↔ a < 0x0C000000 ∨ (0x10000008 ≤ a ∧ a < 0x20000000) ∨
      (0x30000000 ≤ a ∧ a < 0x80000000) ∨ 0xC0000000 ≤ a)

/-- O7. Every listed access to no range, at a wrong width or in a gap faults and changes nothing.
Derived from the table of 30_encoding.md R109 (Bus, RAM, PLIC, UART rows), whose gaps the spec marks as
its decisions D3, D5, D13 to D16, D28. -/
def Obligations.AccessesThatSelectNoRegisterFault : Prop :=
  (∀ (s : State) (rest : List Request) (a n : Nat) (v : Carrier),
    (n ≠ 1 ∧ n ≠ 2 ∧ n ≠ 4 ∧ n ≠ 8) ∨ a < 0x0C000000 ∨ (0x10000008 ≤ a ∧ a < 0x20000000) ∨
    (0x30000000 ≤ a ∧ a < 0x80000000) ∨ 0xC0000000 ≤ a ∨ (0x80000000 ≤ a ∧ 0xC0000000 < a + n) ∨
    (0x0C000000 ≤ a ∧ a < 0x10000000 ∧
      (n ≠ 4 ∨ a % 4 ≠ 0 ∨ a = 0x0C000000 ∨ (0x0C001080 ≤ a ∧ a < 0x0C002000) ∨
        (0x0C002100 ≤ a ∧ a < 0x0C200000) ∨ (0x0C200008 ≤ a ∧ a < 0x0C201000) ∨
        0x0C201008 ≤ a)) ∨
    (0x10000000 ≤ a ∧ a < 0x10000008 ∧ n ≠ 1) →
    step { s with trace := .read a n :: rest } =
      .next { s with trace := rest, resp := .accessFault } ∧
    step { s with trace := .write a n v :: rest } =
      .next { s with trace := rest, resp := .accessFault }) ∧
  (∀ (s : State) (rest : List Request) (a n : Nat) (v : Carrier),
    (0x0C001000 ≤ a ∧ a < 0x0C001080) ∨ a = 0x10000005 ∨ a = 0x10000006 →
    step { s with trace := .write a n v :: rest } =
      .next { s with trace := rest, resp := .accessFault })

/-- O8. Every access of the SoC window that the register table does not list faults and changes nothing.
Derived from 43_soc_aux.md R250, which the spec marks as its decisions D32, D33; the layout is free (log
5). -/
def Obligations.SocAccessesOutsideTheTableFault : Prop :=
  ∀ (s : State) (rest : List Request) (o n : Nat) (v : Carrier), o < 0x10000000 →
    (¬ (o = Config.socLayout.offTime ∧ n = 8) → ¬ (o = Config.socLayout.offFbctl ∧ n = 4) →
      ¬ (o = Config.socLayout.offKbd ∧ n = 4) →
      ¬ (Config.socLayout.offPix ≤ o ∧ o < Config.socLayout.offPix + Config.socLayout.pixBytes ∧
        (o - Config.socLayout.offPix) % 4 = 0 ∧ n = 4) →
      step { s with trace := .read (0x20000000 + o) n :: rest } =
        .next { s with trace := rest, resp := .accessFault }) ∧
    (¬ (o = Config.socLayout.offFbctl + 4 ∧ n = 4) → ¬ (o = Config.socLayout.offPoweroff ∧ n = 1) →
      ¬ (Config.socLayout.offPix ≤ o ∧ o < Config.socLayout.offPix + Config.socLayout.pixBytes ∧
        (o - Config.socLayout.offPix) % 4 = 0 ∧ n = 4) →
      step { s with trace := .write (0x20000000 + o) n v :: rest } =
        .next { s with trace := rest, resp := .accessFault })

/-- O9. An operation that answers the access fault has changed nothing. Derived from 60_exceptions.md
R302 ("A faulting operation changes no state of the block"), which the spec marks as its decision D4. -/
def Obligations.AnAccessFaultChangesNoState : Prop :=
  ∀ (s t : State) (r : Request) (rest : List Request) (a n : Nat) (v : Carrier), s.trace = r :: rest →
    r = .read a n ∨ r = .write a n v → step s = .next t → t.resp = .accessFault →
    t = { s with trace := rest, resp := .accessFault }

/-- O10. Whether an access faults depends on direction, size and address alone. Derived from
60_exceptions.md R300 ("it never depends on the value written or on any other device state"). -/
def Obligations.TheFaultDependsOnTheAccessAlone : Prop :=
  (∀ (s s' t t' : State) (rest rest' : List Request) (a n : Nat),
    step { s with trace := .read a n :: rest } = .next t →
    step { s' with trace := .read a n :: rest' } = .next t' →
    (t.resp = .accessFault ↔ t'.resp = .accessFault)) ∧
  (∀ (s s' t t' : State) (rest rest' : List Request) (a n : Nat) (v v' : Carrier),
    step { s with trace := .write a n v :: rest } = .next t →
    step { s' with trace := .write a n v' :: rest' } = .next t' →
    (t.resp = .accessFault ↔ t'.resp = .accessFault))

/-- O11. READ, WRITE, CLK and POLL always answer, each with an outcome of its own kind. 00_scope.md R12.
-/
def Obligations.EveryCallerOperationAnswersInItsOwnKind : Prop :=
  ∀ (s : State) (rest : List Request),
    (∀ a n : Nat, ∃ t, step { s with trace := .read a n :: rest } = .next t ∧
      (t.resp = .accessFault ∨ ∃ v, t.resp = .value v)) ∧
    (∀ (a n : Nat) (v : Carrier), ∃ t, step { s with trace := .write a n v :: rest } = .next t ∧
      (t.resp = .accessFault ∨ t.resp = .done)) ∧
    (∃ t, step { s with trace := .clk :: rest } = .next t ∧ t.resp = .nothing) ∧
    (∃ t, step { s with trace := .poll :: rest } = .next t ∧
      (t.resp = .level none ∨ t.resp = .level (some false) ∨ t.resp = .level (some true)))

/-- O12. No request the caller or the host may make stops the machine. Derived from 60_exceptions.md
R303 ("No operation panics or aborts the process under any input") and 44_channel_host.md R288. R284
says that HOST.TX and HOST.CMD on an empty queue are a step NOT ENABLED: that they answer a next state
(`waits`) and leave the trace is the MODEL'S CHOICE (log 8, over the trace of log 1). -/
def Obligations.NoAgentRequestStopsTheMachine : Prop :=
  ∀ (s : State) (r : Request) (rest : List Request), s.trace = r :: rest →
    r.fromCaller = true ∨ r.fromHost = true → ∃ t, step s = .next t ∧ t.trace = rest

/-- O13. A READ of n bytes answers a value below 2^(8n). Derived from 00_scope.md R13 ("a READ of `n`
bytes returns a value below `2^(8n)`"), which the spec marks as its decision D2. -/
def Obligations.ReadValuesFitTheirWidth : Prop :=
  ∀ (s t : State) (rest : List Request) (a n : Nat) (v : Carrier),
    step { s with trace := .read a n :: rest } = .next t → t.resp = .value v → v.toNat < 2 ^ (8 * n)

/-- O14. A CLK only counts, or at divider 999 is RAM.clk, PLIC.clk, UART.clk, SOC.clk, Bus.drain in that
order; the first two do nothing. Derived from 40_bus_memory.md R132, R133, R138 and 41_plic.md R178; the
phase of the divider is the spec's decision D7 and the order of the devices, and that RAM and PLIC have
nothing to clock, its decision D8. -/
def Obligations.EveryThousandthClkIsADrivenTick : Prop :=
  (∀ s : State, s.bus.div + 1 ≠ 1000 →
    exec .clk s = .next { s with bus := { div := s.bus.div + 1 }, resp := .nothing }) ∧
  (∀ s : State, s.bus.div + 1 = 1000 →
    ∃ s1 s2 s3 s4 t c1 c2 c3 c4,
      exec (.ramClk []) { s with bus := { div := 0 } } = .next s1 ∧ s1.resp = .collected c1 ∧
      exec (.plicClk c1) s1 = .next s2 ∧ s2.resp = .collected c2 ∧
      exec (.uartClk c2) s2 = .next s3 ∧ s3.resp = .collected c3 ∧
      exec (.socClk c3) s3 = .next s4 ∧ s4.resp = .collected c4 ∧
      exec (.busDrain c4) s4 = .next t ∧ exec .clk s = .next t ∧ t.bus.div = 0) ∧
  (∀ (s : State) (col : List IrqEvent),
    exec (.ramClk col) s = .next { s with resp := .collected col } ∧
    exec (.plicClk col) s = .next { s with resp := .collected col })

/-- O15. At a driven tick the UART's line is the pending bit of UART_IRQ, and of no other source.
Derived from 42_uart.md R221, R222 and 60_exceptions.md R305; the bit positions are the spec's decision
D21, the event on every tick its decision D25, and UART_IRQ is free (log 5). -/
def Obligations.ADrivenTickDrivesTheUartLineIntoThePlic : Prop :=
  ∀ s : State, s.bus.div + 1 = 1000 →
    ∃ t, exec .clk s = .next t ∧
      (∀ j < 1024, t.plic.pend.getLsbD j =
        if j = Config.uartIrq.val then
          (s.uart.erx && (!s.uart.clrRx && (s.uart.dr || !s.uart.rxq.isEmpty))) ||
          (s.uart.etx && (s.uart.temt || s.uart.clrTx))
        else s.plic.pend.getLsbD j) ∧
      (t.plic.upd = true ↔ s.plic.upd = true ∨ t.plic.pend ≠ s.plic.pend) ∧
      t.plic = { s.plic with pend := t.plic.pend, upd := t.plic.upd } ∧
      t.ram = s.ram ∧ t.bus.div = 0 ∧ t.trace = s.trace ∧ t.resp = .nothing

/-- O16. check_interrupt reports whether context 0 has a best source when the update flag is set, and
clears the flag. 41_plic.md R162. -/
def Obligations.CheckInterruptReportsContextZeroOnce : Prop :=
  ∀ s : State, ∃ id, exec (.plicBest .machine) s = .next { s with resp := .source id } ∧
    (s.plic.upd = true → exec .plicCheckInterrupt s =
      .next { s with plic := { s.plic with upd := false }, resp := .level (some (id != 0)) }) ∧
    (s.plic.upd = false → exec .plicCheckInterrupt s = .next { s with resp := .level none })

/-- O17. POLL answers Some(level) exactly when the update flag is set, level saying whether context 0
has an eligible source. Derived from 40_bus_memory.md R134, which the spec marks as its decision D9, and
90_conflicts.md C1, C6, C7. -/
def Obligations.PollReportsWhetherContextZeroHasAnEligibleSource : Prop :=
  ∀ s : State,
    (s.plic.upd = true → ∃ (b : Bool) (t : State), exec .poll s = .next t ∧
      t = { s with plic := { s.plic with upd := false }, resp := .level (some b) } ∧
      (b = true ↔ ∃ i, s.plic.Eligible .machine i) ∧
      exec .poll t = .next { t with resp := .level none }) ∧
    (s.plic.upd = false → exec .poll s = .next { s with resp := .level none })

/-- O18. A drain of events with distinct source-ids sets each source's pending bit to its event's level,
in whatever order. Derived from 40_bus_memory.md R133 ("With distinct source-ids the `irq` operations
commute"), which the spec marks as its decision D10; collisions are refused (log 9). -/
def Obligations.TheDrainSetsEachCollectedSource : Prop :=
  ∀ (s : State) (col : List IrqEvent), noCollision col = true →
    ∃ t, exec (.busDrain col) s = .next t ∧
      t = { s with plic := { s.plic with pend := t.plic.pend, upd := t.plic.upd }, resp := .nothing } ∧
      (∀ e ∈ col, t.plic.pend.getLsbD e.source.val = e.level) ∧
      (∀ j < 1024, (∀ e ∈ col, e.source.val ≠ j) → t.plic.pend.getLsbD j = s.plic.pend.getLsbD j) ∧
      (t.plic.upd = true ↔ s.plic.upd = true ∨ t.plic.pend ≠ s.plic.pend) ∧
      (∀ col' : List IrqEvent, col'.Perm col → exec (.busDrain col') s = .next t)

/-- O19. Two steps of the block on one operation differ in the key words and clock value drawn alone,
and any may be drawn. Derived from 10_state.md R61 ("What is not state and must not be made state by a
model"), which the spec marks as derived, 20_memory.md R77, 43_soc_aux.md R251, R258 and
44_channel_host.md R288, R289. `BlockStep` is the model's form of the open step relation; that the
machine's own step takes these inputs from fields beside the block is the MODEL'S CHOICE (log 1, log 3,
log 4). -/
def Obligations.OnlyTheDrawsAreLeftOpen : Prop :=
  (∀ (b b1 b2 : Block) (r : Request) (a1 a2 : Response), BlockStep b r a1 b1 → BlockStep b r a2 b2 →
    (a1 = a2 ∨ decode b.uart.dlab r = .ok .socTimeR ∨ decode b.uart.dlab r = .ok .hostNow) ∧
    b2 = { b1 with soc := { b1.soc with kbd := b2.soc.kbd } } ∧
    (b1 = b2 ∨ r = .clk ∨ ∃ col, r = .deviceClk .soc col)) ∧
  (∀ (b : Block) (r : Request) (now : Carrier),
    (decode b.uart.dlab r = .ok .socTimeR → BlockStep b r (.value now) b) ∧
    (decode b.uart.dlab r = .ok .hostNow → BlockStep b r (.now now) b)) ∧
  (∀ (b : Block) (ks : List Word), b.bus.div + 1 = 1000 → keyWords ks = true →
    ∃ b', BlockStep b .clk .nothing b' ∧ b'.soc.kbd = b.soc.kbd ++ ks) ∧
  (∀ (s t : State) (r : Request) (rest : List Request), s.trace = r :: rest →
    keyWords s.hostKeys = true → step s = .next t → BlockStep s.toBlock r t.resp t.toBlock)

/-- O20. RAM.R answers the bytes at its address, the lowest address least significant. Derived from
40_bus_memory.md R136 and 20_memory.md R74; the bound at the end of RAM is the spec's decision D5. -/
def Obligations.RamReadsAreLittleEndian : Prop :=
  ∀ (s : State) (w : Width) (o : BitVec 30), o.toNat + w.bytes ≤ 0x40000000 →
    ∃ v : Carrier, exec (.ramR w o) s = .next { s with resp := .value v } ∧
      v.toNat < 2 ^ (8 * w.bytes) ∧
      ∀ k < w.bytes, (v >>> (8 * k)).setWidth 8 = s.ram.readByte (ramAddress o + k)

/-- O21. RAM.W stores byte k of the value at its address plus k and changes no other byte and no other
state. Derived from 40_bus_memory.md R137 ("No other byte of RAM and no other state changes") and
20_memory.md R74; the bound is the spec's decision D5. -/
def Obligations.RamWritesStoreTheirBytesAlone : Prop :=
  ∀ (s : State) (w : Width) (o : BitVec 30) (v : Carrier), o.toNat + w.bytes ≤ 0x40000000 →
    ∃ m : Memory, exec (.ramW w o v) s = .next { s with ram := m, resp := .done } ∧
      (∀ k < w.bytes, m.readByte (ramAddress o + k) = (v >>> (8 * k)).setWidth 8) ∧
      (∀ a, a < ramAddress o ∨ ramAddress o + w.bytes ≤ a → m.readByte a = s.ram.readByte a)

/-- O22. Reading RAM at the width and address just written returns the value written. Derived from the
source's property quoted by 40_bus_memory.md R137 and 95_test_vectors.md S1; the canonical form is the
model's (log 6). -/
def Obligations.RamReadAfterWriteReturnsTheValue : Prop :=
  ∀ (s : State) (w : Width) (o : BitVec 30) (v : Carrier), o.toNat + w.bytes ≤ 0x40000000 →
    v.toNat < 2 ^ (8 * w.bytes) →
    ∃ t, exec (.ramW w o v) s = .next t ∧
      exec (.ramR w o) t = .next { t with resp := .value v } ∧ (s.ram.wf = true → t.ram.wf = true)

/-- O23. Two memories in canonical form that read alike at every address are the same data. The
canonical form is the model's choice (log 6); RAM's initial contents are the open parameter of
10_state.md R54. -/
def Obligations.CanonicalMemoriesThatReadAlikeAreEqual : Prop :=
  ∀ m m' : Memory, m.wf = true → m'.wf = true → (∀ a, m.readByte a = m'.readByte a) → m = m'

/-- O24. A READ of a priority or threshold register selects it by address and answers its 32 bits.
41_plic.md R165, R171. -/
def Obligations.PriorityAndThresholdReads : Prop :=
  ∀ (s : State) (dlab : Bool),
    (∀ i : SourceId, i ≠ 0 →
      decode dlab (.read (0x0C000000 + 4 * i.val) 4) = .ok (.plicPrioR i) ∧
      exec (.plicPrioR i) s =
        .next { s with resp := .value ((s.plic.prioOf i.val).setWidth 64) }) ∧
    decode dlab (.read 0x0C200000 4) = .ok (.plicThrR .machine) ∧
    decode dlab (.read 0x0C201000 4) = .ok (.plicThrR .supervisor) ∧
    (∀ c : Context, exec (.plicThrR c) s =
      .next { s with resp := .value ((s.plic.ctx c).thr.setWidth 64) })

/-- O25. PLIC.PRIO.W stores all 32 bits in the source's priority and changes nothing else. Derived from
41_plic.md R166, which the spec marks as its decision D11 (all 32 bits). The clause for source-id 0 is
NOT a rule of the spec but the MODEL'S CHOICE (log 17): no request decodes to such an instruction, and
the access at offset 0 (R176) is a statement of its own, AccessesThatSelectNoRegisterFault. -/
def Obligations.APriorityWriteChangesThatPriorityAlone : Prop :=
  (∀ (s : State) (i : SourceId) (v : Word), i ≠ 0 →
    ∃ prio', exec (.plicPrioW i v) s =
        .next { s with plic := { s.plic with prio := prio' }, resp := .done } ∧
      ∀ j, ({ s.plic with prio := prio' } : Plic).prioOf j =
        if j = i.val then v else s.plic.prioOf j) ∧
  (∀ (s : State) (v : Word), exec (.plicPrioW 0 v) s = .next { s with resp := .accessFault } ∧
    exec (.plicPrioR 0) s = .next { s with resp := .accessFault })

/-- O26. PLIC.PEND.R answers the 32 pending bits of its word, source 32w + j at bit j, and changes
nothing. Derived from 41_plic.md R167; the bit order is the spec's decision D12. -/
def Obligations.PendingWordsShowThePendingBits : Prop :=
  ∀ (s : State) (w : Fin 32), ∃ v : Carrier,
    exec (.plicPendR w) s = .next { s with resp := .value v } ∧ v.toNat < 2 ^ 32 ∧
    ∀ j < 32, v.getLsbD j = s.plic.pend.getLsbD (32 * w.val + j)

/-- O27. PLIC.EN.R and PLIC.EN.W read and replace the 32 enable bits of one word of one context. Derived
from 41_plic.md R169 and R170; bit order and contexts are the spec's decisions D12, D14. -/
def Obligations.EnableWordsAreReadAndReplacedWhole : Prop :=
  (∀ (s : State) (c : Context) (w : Fin 32), ∃ v : Carrier,
    exec (.plicEnR c w) s = .next { s with resp := .value v } ∧ v.toNat < 2 ^ 32 ∧
    ∀ j < 32, v.getLsbD j = (s.plic.ctx c).en.getLsbD (32 * w.val + j)) ∧
  (∀ (s : State) (c : Context) (w : Fin 32) (v : Word), ∃ en',
    exec (.plicEnW c w v) s =
      .next { s with plic := s.plic.withCtx c { s.plic.ctx c with en := en' }, resp := .done } ∧
    ∀ i < 1024, en'.getLsbD i =
      if 32 * w.val ≤ i ∧ i < 32 * w.val + 32 then v.getLsbD (i - 32 * w.val)
      else (s.plic.ctx c).en.getLsbD i)

/-- O28. PLIC.THR.W stores all 32 bits in its context's threshold, which then reads back, and changes
nothing else. Derived from 41_plic.md R172, which the spec marks as its decision D11. -/
def Obligations.AThresholdWriteReadsBack : Prop :=
  ∀ (s : State) (c : Context) (v : Word), ∃ t, exec (.plicThrW c v) s = .next t ∧
    t = { s with plic := s.plic.withCtx c { s.plic.ctx c with thr := v }, resp := .done } ∧
    exec (.plicThrR c) t = .next { t with resp := .value (v.setWidth 64) }

/-- O29. The scan of the arbitration finds the least source-id among the eligible sources of greatest
priority. Derived from 41_plic.md R160 ("otherwise `best(c)` is the *least* `i` in `E(c)` whose priority
equals the greatest priority in `E(c)`"); the 32-bit unsigned comparison is the spec's decision D11. -/
def Obligations.BestIsTheLeastOfTheGreatestPriority : Prop :=
  ∀ (s : State) (c : Context), ∃ id, exec (.plicBest c) s = .next { s with resp := .source id } ∧
    ((id = 0 ∧ ∀ i, ¬ s.plic.Eligible c i) ∨
      (s.plic.Eligible c id ∧ ∀ j, s.plic.Eligible c j →
        s.plic.prioOf j < s.plic.prioOf id ∨ (s.plic.prioOf j = s.plic.prioOf id ∧ id ≤ j)))

/-- O30. PLIC.claim takes the best source: its pending bit cleared, its claimed bit set, the update flag
set, or nothing if there is none. Derived from 41_plic.md R163; that an empty claim does not mark the
update flag is the spec's decision D18. -/
def Obligations.AClaimTakesTheBestSource : Prop :=
  ∀ (s : State) (c : Context), ∃ id t, exec (.plicClaim c) s = .next t ∧
    exec (.plicBest c) s = .next { s with resp := .source id } ∧
    (id = 0 → t = { s with resp := .source 0 }) ∧
    (id ≠ 0 → id ≤ 1023 ∧ s.plic.pend.getLsbD id = true ∧ ∃ pend' claimed',
      t = { s with
        plic := ({ s.plic with pend := pend', upd := true } : Plic).withCtx c
          { s.plic.ctx c with claimed := claimed' }
        resp := .source id } ∧
      (∀ j < 1024, pend'.getLsbD j = if j = id then false else s.plic.pend.getLsbD j) ∧
      (∀ j < 1024, claimed'.getLsbD j =
        if j = id then true else (s.plic.ctx c).claimed.getLsbD j))

/-- O31. A READ of a context's claim register is claim of that context, answering the source-id in 32
bits. 41_plic.md R173. -/
def Obligations.TheClaimRegisterClaims : Prop :=
  (∀ dlab : Bool, decode dlab (.read 0x0C200004 4) = .ok (.plicClaimR .machine) ∧
    decode dlab (.read 0x0C201004 4) = .ok (.plicClaimR .supervisor)) ∧
  (∀ (s : State) (c : Context), ∃ id t, id < 1024 ∧ exec (.plicClaim c) s = .next t ∧
    t.resp = .source id ∧ exec (.plicClaimR c) s = .next { t with resp := .value (BitVec.ofNat 64 id) })

/-- O32. PLIC.complete and the complete register clear one claimed bit of one context, or nothing if the
source-id names none. Derived from 41_plic.md R164 and R174; what a source-id above 1023 does is the
spec's decision D17. -/
def Obligations.ACompletionReleasesItsSourceAlone : Prop :=
  ∀ (s : State) (c : Context) (v : Word), ∃ claimed',
    exec (.plicComplete c v) s = .next { s with
      plic := s.plic.withCtx c { s.plic.ctx c with claimed := claimed' }
      resp := .nothing } ∧
    exec (.plicCompleteW c v) s = .next { s with
      plic := s.plic.withCtx c { s.plic.ctx c with claimed := claimed' }
      resp := .done } ∧
    ∀ j < 1024, claimed'.getLsbD j =
      if j = v.toNat then false else (s.plic.ctx c).claimed.getLsbD j

/-- O33. PLIC.irq sets the pending bit of its source to the level and sets the update flag only if the
bit changed. 41_plic.md R161. -/
def Obligations.IrqSetsThePendingBitAndMarksOnlyAChange : Prop :=
  ∀ (s : State) (i : SourceId) (level : Bool),
    (s.plic.pend.getLsbD i.val = level →
      exec (.plicIrq i level) s = .next { s with resp := .nothing }) ∧
    (s.plic.pend.getLsbD i.val ≠ level → ∃ pend',
      exec (.plicIrq i level) s = .next { s with
        plic := { s.plic with pend := pend', upd := true }
        resp := .nothing } ∧
      ∀ j < 1024, pend'.getLsbD j = if j = i.val then level else s.plic.pend.getLsbD j)

/-- O34. Over all operations, the update flag rises only when some pending bit changes, and is set
whenever one does. Derived from 41_plic.md R179, which the spec marks as derived from its other rules.
-/
def Obligations.TheUpdateFlagRisesExactlyWithAPendingChange : Prop :=
  ∀ (i : Instr) (s t : State), i.wf = true → exec i s = .next t →
    (s.plic.upd = false → t.plic.upd = true → t.plic.pend ≠ s.plic.pend) ∧
    (t.plic.pend ≠ s.plic.pend → t.plic.upd = true)

/-- O35. Source-id 0 is never pending and never claimed unless a device emits an event for it. Derived
from 10_state.md R60, which the spec marks as derived. -/
def Obligations.SourceZeroStaysQuiet : Prop :=
  State.reset.plic.sourceZeroQuiet = true ∧
  ∀ (s t : State) (r : Request) (rest : List Request), s.trace = r :: rest →
    r.emitsSourceZero = false → s.plic.sourceZeroQuiet = true → step s = .next t →
    t.plic.sourceZeroQuiet = true

/-- O36. READs of the divisor latch and of the interrupt-enable register select by address and DLAB and
answer it. 42_uart.md R202, R205, R207. -/
def Obligations.DivisorAndEnableReadsAnswerTheirRegister : Prop :=
  ∀ s : State,
    decode true (.read 0x10000000 1) = .ok .uartDllR ∧
    exec .uartDllR s = .next { s with resp := .value (s.uart.dll.setWidth 64) } ∧
    decode false (.read 0x10000001 1) = .ok .uartIerR ∧
    exec .uartIerR s = .next { s with resp := .value (s.uart.ier.setWidth 64) } ∧
    decode true (.read 0x10000001 1) = .ok .uartDlhR ∧
    exec .uartDlhR s = .next { s with resp := .value (s.uart.dlh.setWidth 64) }

/-- O37. READs of IIR, LCR, MCR, LSR, MSR and SCR answer the register, at either DLAB, and change
nothing. Derived from 42_uart.md R209, R211, R213, R215, R217, R219; the offsets 2 to 7 are the spec's
decision D20 (general knowledge), the absence of side effects its decisions D29, D30. -/
def Obligations.ControlAndStatusReadsHaveNoSideEffect : Prop :=
  ∀ (s : State) (dlab : Bool),
    decode dlab (.read 0x10000002 1) = .ok .uartIirR ∧
    exec .uartIirR s = .next { s with resp := .value (s.uart.iir.setWidth 64) } ∧
    decode dlab (.read 0x10000003 1) = .ok .uartLcrR ∧
    exec .uartLcrR s = .next { s with resp := .value (s.uart.lcr.setWidth 64) } ∧
    decode dlab (.read 0x10000004 1) = .ok .uartMcrR ∧
    exec .uartMcrR s = .next { s with resp := .value (s.uart.mcr.setWidth 64) } ∧
    decode dlab (.read 0x10000005 1) = .ok .uartLsrR ∧
    exec .uartLsrR s = .next { s with resp := .value (s.uart.lsr.setWidth 64) } ∧
    decode dlab (.read 0x10000006 1) = .ok .uartMsrR ∧
    exec .uartMsrR s = .next { s with resp := .value 0#64 } ∧
    decode dlab (.read 0x10000007 1) = .ok .uartScrR ∧
    exec .uartScrR s = .next { s with resp := .value (s.uart.scr.setWidth 64) }

/-- O38. WRITEs of the divisor latch, FCR, LCR and SCR store all 8 bits, of IER the low 4, of MCR the
low 5, and change nothing else. Derived from 42_uart.md R204, R208, R210, R212, R220, which the spec
marks as its decisions D30, D31, and from R206 and R214 ("interrupt-enable low 4 bits only",
"modem-control low 5 bits only"). -/
def Obligations.UartRegisterWritesStoreTheirBits : Prop :=
  ∀ (s : State) (v : Byte),
    exec (.uartDllW v) s = .next { s with uart := { s.uart with dll := v }, resp := .done } ∧
    exec (.uartDlhW v) s = .next { s with uart := { s.uart with dlh := v }, resp := .done } ∧
    exec (.uartFcrW v) s = .next { s with uart := { s.uart with fcr := v }, resp := .done } ∧
    exec (.uartLcrW v) s = .next { s with uart := { s.uart with lcr := v }, resp := .done } ∧
    exec (.uartScrW v) s = .next { s with uart := { s.uart with scr := v }, resp := .done } ∧
    (∃ ier', exec (.uartIerW v) s =
        .next { s with uart := { s.uart with ier := ier' }, resp := .done } ∧
      ∀ j < 8, ier'.getLsbD j = (decide (j < 4) && v.getLsbD j)) ∧
    (∃ mcr', exec (.uartMcrW v) s =
        .next { s with uart := { s.uart with mcr := mcr' }, resp := .done } ∧
      ∀ j < 8, mcr'.getLsbD j = (decide (j < 5) && v.getLsbD j))

/-- O39. WRITEs of the pending bitmap, line status and modem status answer the access fault and change
nothing. Derived from 41_plic.md R168 and 42_uart.md R216, R218, which the spec marks as its decisions
D15, D28. -/
def Obligations.WritesToReadOnlyRegistersFault : Prop :=
  ∀ s : State,
    (∀ (w : Fin 32) (v : Word), exec (.plicPendW w v) s = .next { s with resp := .accessFault }) ∧
    (∀ v : Byte, exec (.uartLsrW v) s = .next { s with resp := .accessFault }) ∧
    (∀ v : Byte, exec (.uartMsrW v) s = .next { s with resp := .accessFault })

/-- O40. UART.RBR.R answers 0 on a break or an empty queue, else pops the head, clears OE, and clears DR
only under the parameter. Derived from 42_uart.md R201, which the spec marks as its decisions D26, D44;
UART_RBR_CLEARS_DR is free (log 5). -/
def Obligations.TheDataRegisterReadPopsAndClearsOverrun : Prop :=
  ∀ s : State,
    (s.uart.bi = true ∨ s.uart.rxq = [] →
      exec .uartRbrR s = .next { s with resp := .value 0#64 }) ∧
    (∀ b rest, s.uart.bi = false → s.uart.rxq = b :: rest → ∃ lsr',
      exec .uartRbrR s = .next { s with
        uart := { s.uart with rxq := rest, lsr := lsr' }
        resp := .value (b.setWidth 64) } ∧
      lsr'.getLsbD 1 = false ∧
      lsr'.getLsbD 0 = (s.uart.dr && !(Config.uartRbrClearsDr && rest.isEmpty)) ∧
      ∀ j, 2 ≤ j → j < 8 → lsr'.getLsbD j = s.uart.lsr.getLsbD j)

/-- O41. UART.THR.W drops the byte with OE set, or loops it back, or sends it out, with TEMT and THRE
set. Derived from 42_uart.md R203, which the spec marks as its decision D27; `printed` is the model's
record of 10_state.md R42 (log 12). -/
def Obligations.TheDataRegisterWriteDropsLoopsOrSends : Prop :=
  ∀ (s : State) (v : Byte), ∃ lsr',
    (s.uart.fen = false ∧ s.uart.dr = true →
      exec (.uartThrW v) s =
        .next { s with uart := { s.uart with lsr := lsr' }, resp := .done } ∧
      ∀ j < 8, lsr'.getLsbD j = if j = 1 then true else s.uart.lsr.getLsbD j) ∧
    (s.uart.fen = true ∨ s.uart.dr = false →
      (s.uart.loop = true → exec (.uartThrW v) s = .next { s with
        uart := { s.uart with lsr := lsr', rxq := s.uart.rxq ++ [v] }
        resp := .done }) ∧
      (s.uart.loop = false → exec (.uartThrW v) s = .next { s with
        uart := { s.uart with
          lsr := lsr'
          txq := s.uart.txq ++ [v]
          printed := s.uart.printed ++ [v] }
        resp := .done }) ∧
      ∀ j < 8, lsr'.getLsbD j = if j = 5 ∨ j = 6 then true else s.uart.lsr.getLsbD j)

/-- O42. In loopback a byte written to the data register is read back at once and does not reach the
output. Derived from 42_uart.md R223 (d) and 95_test_vectors.md S5; the test of the dropped write is the
spec's decision D27. -/
def Obligations.LoopbackReturnsTheByteAndSendsNothing : Prop :=
  ∀ (s : State) (v : Byte), s.uart.loop = true → s.uart.fen = true ∨ s.uart.dr = false →
    s.uart.rxq = [] → s.uart.bi = false →
    ∃ t t', exec (.uartThrW v) s = .next t ∧ t.uart.txq = s.uart.txq ∧
      exec .uartRbrR t = .next t' ∧ t'.resp = .value (v.setWidth 64) ∧ t'.uart.txq = s.uart.txq ∧
      t'.uart.rxq = []

/-- O43. UART.clk sets DR, serves the clear requests of line control, recomputes IIR and emits one event
with the line's level. Derived from 42_uart.md R221, which the spec marks as its decisions D21, D22,
D24, D25, D43. -/
def Obligations.TheUartClockServesRequestsAndIdentifies : Prop :=
  ∀ (s : State) (col : List IrqEvent) (dr temt rdi thri : Bool),
    dr = (!s.uart.clrRx && (s.uart.dr || !s.uart.rxq.isEmpty)) →
    temt = (s.uart.temt || s.uart.clrTx) → rdi = (s.uart.erx && dr) → thri = (s.uart.etx && temt) →
    ∃ lsr', exec (.uartClk col) s = .next { s with
        uart := { s.uart with
          lsr := lsr'
          lcr := s.uart.lcr &&& 0xF9#8
          rxq := if s.uart.clrRx then [] else s.uart.rxq
          iir := match rdi, thri with
            | false, false => 0x01#8
            | false, true => 0x02#8
            | true, false => 0x04#8
            | true, true => 0x06#8 }
        resp := .collected (col ++ [{ source := Config.uartIrq, level := rdi || thri }]) } ∧
      lsr'.getLsbD 0 = dr ∧ lsr'.getLsbD 6 = (temt || !s.uart.etx) ∧
      lsr'.getLsbD 5 = (s.uart.thre || s.uart.clrTx || !s.uart.etx) ∧
      (∀ j < 8, j ≠ 0 → j ≠ 5 → j ≠ 6 → lsr'.getLsbD j = s.uart.lsr.getLsbD j)

/-- O44. SOC.TIME.R and HOST.NOW answer the wall clock's next free value and change no state of the
block. Derived from 43_soc_aux.md R251, which the spec marks as its decisions D33, D34; the clock is a
free value of the model, counted by its own field (log 3). -/
def Obligations.TheTimerAnswersAFreshClockValue : Prop :=
  ∀ s : State,
    exec .socTimeR s = .next { s with
      clockDraws := s.clockDraws + 1
      resp := .value (Config.wallClock s.clockDraws) } ∧
    exec .hostNow s = .next { s with
      clockDraws := s.clockDraws + 1
      resp := .now (Config.wallClock s.clockDraws) }

/-- O45. SOC.FBCTL_LO.R answers the fixed geometry; SOC.FBCTL_HI.W issues one present of the pixel
buffer as it is. Derived from 43_soc_aux.md R252 and R253, which the spec marks as its decisions D33,
D35; the record of frames is the model's (log 12). -/
def Obligations.TheFramebufferPairReadsGeometryAndPresents : Prop :=
  ∀ (s : State) (v : Word),
    exec .socFbctlLoR s = .next { s with resp := .value (Config.fbGeometry.setWidth 64) } ∧
    exec (.socFbctlHiW v) s = .next { s with
      soc := { s.soc with presents := s.soc.presents + 1, frames := s.soc.frames ++ [s.soc.pix] }
      resp := .done }

/-- O46. SOC.KBD.R answers and consumes the head of the keyboard FIFO, or answers 0 when it is empty.
Derived from 43_soc_aux.md R254, which the spec marks as its decisions D33, D36. -/
def Obligations.TheKeyboardReadPopsTheHead : Prop :=
  ∀ s : State,
    (s.soc.kbd = [] → exec .socKbdR s = .next { s with resp := .value 0#64 }) ∧
    (∀ k rest, s.soc.kbd = k :: rest → exec .socKbdR s = .next { s with
      soc := { s.soc with kbd := rest }
      resp := .value (k.setWidth 64) })

/-- O47. SOC.POWEROFF.W latches a request, however often; the next SOC.clk sends one command and takes
the host's keys. Derived from 43_soc_aux.md R255, R258, R259, which the spec marks as its decisions D36,
D37, D39; that supplied keys wait in a field is the model's (log 4). -/
def Obligations.PoweroffIsLatchedAndSentOnceAtTheTick : Prop :=
  (∀ (s : State) (v v' : Byte), ∃ t, exec (.socPoweroffW v) s = .next t ∧
    t = { s with soc := { s.soc with poff := true }, resp := .done } ∧
    exec (.socPoweroffW v') t = .next t) ∧
  (∀ (s : State) (col : List IrqEvent), exec (.socClk col) s = .next { s with
    soc := { s.soc with
      kbd := s.soc.kbd ++ s.hostKeys
      cmdq := s.soc.cmdq ++ (if s.soc.poff then [.poweroff] else [])
      poff := false }
    hostKeys := []
    resp := .collected col })

/-- O48. A run of a program ends where its trace ends or at the HOST.CMD that takes a Poweroff, and
every operation before runs as usual. Derived from 60_exceptions.md R320 ("A model should define the end
of a run as the host's `HOST.CMD` step") and 70_reset_and_hazards.md R351, which the spec marks as its
decision D37. That a HOST.CMD that waits ends no run, and that the machine's own step serves what comes
after, is the MODEL'S CHOICE (log 20, log 8). -/
def Obligations.ARunEndsWhereTheHostTakesThePoweroff : Prop :=
  (∀ s : State, runProgram [] s = .next s) ∧
  (∀ (s : State) (rest : List Request) (c : Command) (cs : List Command), s.soc.cmdq = c :: cs →
    runProgram (.hostCmd :: rest) s = .next { s with
      soc := { s.soc with cmdq := cs }
      resp := .received (.cmdq c) }) ∧
  (∀ (s : State) (rest : List Request), s.soc.cmdq = [] →
    runProgram (.hostCmd :: rest) s = runProgram rest { s with resp := .waits }) ∧
  (∀ (s t : State) (r : Request) (rest : List Request), r ≠ .hostCmd → step (s.issue r) = .next t →
    runProgram (r :: rest) s = runProgram rest t) ∧
  (∀ (s : State) (v : Byte) (rest : List Request), s.bus.div + 1 = 1000 → s.soc.cmdq = [] →
    ∃ t u, runProgram [encode (.socPoweroffW v), .read 0x10000005 1] s = .next t ∧
      t.resp = .value (s.uart.lsr.setWidth 64) ∧
      runProgram (encode (.socPoweroffW v) :: .read 0x10000005 1 :: .clk :: .hostCmd :: rest) s =
        .next u ∧
      u.resp = .received (.cmdq .poweroff) ∧ u.soc.cmdq = [] ∧ u.soc.poff = false ∧
      u.trace = s.trace)

/-- O49. SOC.PIX.W stores one 32-bit word of the pixel buffer, which SOC.PIX.R reads back, and changes
no other word. Derived from 43_soc_aux.md R256, R257, which the spec marks as its decisions D33, D38.
The clause for an index at or above `Config.pixWords` is NOT a rule of the spec but the MODEL'S CHOICE
(log 17): no request decodes to such an instruction. PIX_BYTES is free and may be 0 (R8; log 5), so the
buffer's size stands in the conclusion and no hypothesis asks for a word. -/
def Obligations.PixelWordsAreStoredAndReadBack : Prop :=
  ∀ (s : State) (j : Nat) (v : Word), ∃ pix' : PixMem,
    exec (.socPixW j v) s = .next (if j < Config.pixWords then
        { s with soc := { s.soc with pix := pix' }, resp := .done }
      else { s with resp := .accessFault }) ∧
    (∀ k, pix'.readWord k = if k = j then v else s.soc.pix.readWord k) ∧
    exec (.socPixR j) s = .next { s with
      resp := if j < Config.pixWords then .value ((s.soc.pix.readWord j).setWidth 64)
        else .accessFault }

/-- O50. Channel.push appends its value at the tail of its queue, always, and changes nothing else.
Derived from 44_channel_host.md R281 ("appends `v` at the tail"). The clause on `printed`, the record of
the output that 10_state.md R42 names, is the MODEL'S CHOICE (log 12). -/
def Obligations.PushAppendsAtTheTail : Prop :=
  ∀ s : State,
    (∀ b, exec (.channelPush (.rxq b)) s = .next { s with
      uart := { s.uart with rxq := s.uart.rxq ++ [b] }
      resp := .nothing }) ∧
    (∀ b, exec (.channelPush (.txq b)) s = .next { s with
      uart := { s.uart with txq := s.uart.txq ++ [b], printed := s.uart.printed ++ [b] }
      resp := .nothing }) ∧
    (∀ k, exec (.channelPush (.kbd k)) s = .next { s with
      soc := { s.soc with kbd := s.soc.kbd ++ [k] }
      resp := .nothing }) ∧
    (∀ c, exec (.channelPush (.cmdq c)) s = .next { s with
      soc := { s.soc with cmdq := s.soc.cmdq ++ [c] }
      resp := .nothing })

/-- O51. Values pushed on an empty queue are received in the order they were pushed. Derived from
44_channel_host.md R282 and R284 ("values are delivered FIFO per channel"); the answer of a pop that is
not enabled is the model's (log 8). -/
def Obligations.ChannelsDeliverInOrder : Prop :=
  (∀ (s : State) (q : Queue) (vs : List ChanVal), s.queue q = [] → (∀ v ∈ vs, queueOf v = q) →
    answers (vs.map Instr.channelPush ++ List.replicate vs.length (Instr.channelPop q)) s =
      List.replicate vs.length Response.nothing ++ vs.map Response.received) ∧
  (∀ (s : State) (q : Queue), s.queue q = [] →
    exec (.channelPop q) s = .next { s with resp := .waits })

/-- O52. Channel.nonempty answers whether the queue holds a value; Channel.clear removes every value and
nothing else. 44_channel_host.md R283. -/
def Obligations.NonemptyTestsAndClearEmpties : Prop :=
  ∀ (s : State) (q : Queue),
    (∃ b, exec (.channelNonempty q) s = .next { s with resp := .available b } ∧
      (b = true ↔ s.queue q ≠ [])) ∧
    (∃ t, exec (.channelClear q) s = .next t ∧ t.resp = .nothing ∧ t.queue q = [] ∧
      (∀ q' ≠ q, t.queue q' = s.queue q') ∧
      t.uart = { s.uart with rxq := t.uart.rxq, txq := t.uart.txq } ∧
      t.soc = { s.soc with kbd := t.soc.kbd, cmdq := t.soc.cmdq } ∧
      t.ram = s.ram ∧ t.plic = s.plic ∧ t.bus = s.bus ∧ t.trace = s.trace ∧
      t.hostKeys = s.hostKeys ∧ t.clockDraws = s.clockDraws)

/-- O53. HOST.RX appends its byte to the receive queue, changes no register, and a data-register read
finds it at once. Derived from 44_channel_host.md R285 with 42_uart.md R201 (BI clear: the spec's
decision D44), R221 (no clear-receive request: its decision D21) and 40_bus_memory.md R132 (the driven
tick at divider 999: its decision D7). -/
def Obligations.AHostByteReachesTheReceiveQueueAtOnce : Prop :=
  ∀ (s : State) (b : Byte), ∃ t, exec (.hostRx b) s = .next t ∧
    t = { s with uart := { s.uart with rxq := s.uart.rxq ++ [b] }, resp := .nothing } ∧
    (s.uart.rxq = [] → s.uart.bi = false →
      ∃ t', exec .uartRbrR t = .next t' ∧ t'.resp = .value (b.setWidth 64)) ∧
    (s.bus.div + 1 = 1000 → s.uart.clrRx = false → ∃ u, exec .clk t = .next u ∧ u.uart.dr = true)

/-- O54. HOST.CMD takes the head of the command queue when there is one. 44_channel_host.md R287. -/
def Obligations.TheHostTakesPoweroffCommandsInOrder : Prop :=
  ∀ s : State, ∀ c rest, s.soc.cmdq = c :: rest → exec .hostCmd s = .next { s with
    soc := { s.soc with cmdq := rest }
    resp := .received (.cmdq c) }

/-- O55. HOST.TX and Channel.pop take the head of a queue, or wait when it is empty, and change no
register. Derived from 44_channel_host.md R282 and R286; that a pop on an empty queue, which R284 says
is not enabled, answers `waits` and leaves the trace is the MODEL'S CHOICE (log 8). -/
def Obligations.TheHostTakesTransmittedBytesInOrder : Prop :=
  ∀ s : State,
    (∀ b rest, s.uart.txq = b :: rest → exec .hostTx s = .next { s with
      uart := { s.uart with txq := rest }
      resp := .received (.txq b) }) ∧
    (s.uart.txq = [] → exec .hostTx s = .next { s with resp := .waits }) ∧
    (s.soc.cmdq = [] → exec .hostCmd s = .next { s with resp := .waits }) ∧
    exec (.channelPop .txq) s = exec .hostTx s ∧ exec (.channelPop .cmdq) s = exec .hostCmd s ∧
    (∀ b rest, s.uart.rxq = b :: rest → exec (.channelPop .rxq) s = .next { s with
      uart := { s.uart with rxq := rest }
      resp := .received (.rxq b) }) ∧
    (s.uart.rxq = [] → exec (.channelPop .rxq) s = .next { s with resp := .waits }) ∧
    (∀ k rest, s.soc.kbd = k :: rest → exec (.channelPop .kbd) s = .next { s with
      soc := { s.soc with kbd := rest }
      resp := .received (.kbd k) }) ∧
    (s.soc.kbd = [] → exec (.channelPop .kbd) s = .next { s with resp := .waits })

/-- O56. Key words the host supplies are not in the keyboard FIFO until the next driven tick, and then
arrive in order. Derived from 43_soc_aux.md R258 and 30_encoding.md R111, which the spec marks as its
decision D36; the field of supplied words is the model's (log 4). -/
def Obligations.SuppliedKeysArriveAtTheNextTick : Prop :=
  ∀ (s : State) (ks : List Word), ∃ t, exec (.hostKeys ks) s = .next t ∧
    t = { s with hostKeys := s.hostKeys ++ ks, resp := .nothing } ∧
    ∃ u, exec .clk t = .next u ∧
      (s.bus.div + 1 ≠ 1000 → u.soc.kbd = s.soc.kbd ∧ u.hostKeys = s.hostKeys ++ ks) ∧
      (s.bus.div + 1 = 1000 → u.soc.kbd = s.soc.kbd ++ (s.hostKeys ++ ks) ∧ u.hostKeys = [])

/-- O57. Every READ but those of the claim, data, keyboard and timer registers changes nothing and
answers the same when repeated. Derived from 20_memory.md R76 ("changes no state and, repeated with no
operation between, returns the same value"). -/
def Obligations.QuietReadsAreIdempotent : Prop :=
  ∀ (i : Instr) (s : State), i.quietRead = true →
    ∃ t, exec i s = .next t ∧ t = { s with resp := t.resp } ∧ exec i t = .next t

/-- O58. No operation of the host changes RAM, the PLIC, a UART register, the divider, the pixel buffer
or the keyboard FIFO. Derived from 44_channel_host.md R288, whose rows for the keyboard, the clock and
the pixel buffer the spec marks as its reading (D34 to D36). -/
def Obligations.TheHostTouchesOnlyItsQueues : Prop :=
  ∀ (s t : State) (r : Request) (rest : List Request), s.trace = r :: rest → r.fromHost = true →
    step s = .next t →
    t.bus = s.bus ∧ t.ram = s.ram ∧ t.plic = s.plic ∧
    t.uart = { s.uart with rxq := t.uart.rxq, txq := t.uart.txq } ∧
    t.soc = { s.soc with cmdq := t.soc.cmdq } ∧
    (t.uart.rxq = s.uart.rxq ∨ ∃ b, t.uart.rxq = s.uart.rxq ++ [b]) ∧
    (t.uart.txq = s.uart.txq ∨ ∃ b, s.uart.txq = b :: t.uart.txq) ∧
    (t.soc.cmdq = s.soc.cmdq ∨ ∃ c, s.soc.cmdq = c :: t.soc.cmdq)

/-- O59. Every step keeps the invariant of the state. Derived from 10_state.md R22, R43, R59 (which the
spec marks as derived); the canonical forms and the histories are the model's (log 6, log 12). -/
def Obligations.EveryStepKeepsTheInvariant : Prop :=
  ∀ s t : State, s.Inv → step s = .next t → t.Inv

/-- O60. At reset every register has the value the spec decides, the queues are empty, and the invariant
holds. Derived from 10_state.md R53 to R58, which the spec marks as its decisions D6, D7, D19, D23, D40;
RAM_INIT is free (log 6). The clause `uart.printed = []` and what the invariant says of the two
histories and of the supplied keys rest on the reset values of the model's own fields, which are the
MODEL'S CHOICE (log 18, log 12, log 4). -/
def Obligations.ResetIsTheConstructedBlock : Prop :=
  State.reset.bus.div = 0 ∧
  (∀ i, State.reset.plic.prioOf i = 0#32) ∧ State.reset.plic.pend = 0#1024 ∧
  (∀ c, State.reset.plic.ctx c = { en := 0#1024, thr := 0#32, claimed := 0#1024 }) ∧
  State.reset.plic.upd = false ∧
  State.reset.uart.lcr = 0x00#8 ∧ State.reset.uart.ier = 0x00#8 ∧ State.reset.uart.iir = 0x01#8 ∧
  State.reset.uart.mcr = 0x00#8 ∧ State.reset.uart.lsr = 0x60#8 ∧ State.reset.uart.scr = 0x00#8 ∧
  State.reset.uart.fcr = 0x00#8 ∧ State.reset.uart.dll = 0x00#8 ∧ State.reset.uart.dlh = 0x00#8 ∧
  State.reset.uart.rxq = [] ∧ State.reset.uart.txq = [] ∧ State.reset.uart.printed = [] ∧
  (∀ i < 0x40000000, State.reset.ram.readByte (0x80000000 + i) = Config.ramInit i) ∧
  (∀ j, State.reset.soc.pix.readWord j = 0#32) ∧ State.reset.soc.poff = false ∧
  State.reset.soc.presents = 0 ∧ State.reset.soc.kbd = [] ∧ State.reset.soc.cmdq = [] ∧
  State.reset.Inv
end

