-- ==== Sys2Proof/Laws/Bits.lean ====
section
/-!
SUPPORT. What the operand forms of `Machine/Operands.lean` do, bit by bit.
-/
namespace Sys2Proof.Machine

/-- Assigning a bit changes that bit alone (00_scope.md R10). -/
theorem setBit_getLsbD {n : Nat} (v : BitVec n) (i : Nat) (b : Bool) (j : Nat) (hj : j < n) :
    (setBit v i b).getLsbD j = if j = i then b else v.getLsbD j := by
  unfold setBit
  by_cases h : j = i
  · subst h
    cases b <;> simp [hj]
  · have h2 : ¬ (i ≤ j ∧ j - i = 0) := by omega
    cases b
    · by_cases hij : j < i
      · simp [hj, h, hij]
      · have : j - i ≠ 0 := by omega
        simp [hj, h, this]
    · by_cases hij : j < i
      · simp [hj, h, hij]
      · have : j - i ≠ 0 := by omega
        simp [hj, h, this]

/-- A word of a bitmap, bit by bit (30_encoding.md R105). -/
theorem bitmapWord_getLsbD (b : Bitmap) (w j : Nat) (hj : j < 32) :
    (bitmapWord b w).getLsbD j = b.getLsbD (32 * w + j) := by
  simp [bitmapWord, hj]

/-- Replacing a word of a bitmap changes that word's bits alone (41_plic.md R170). -/
theorem setBitmapWord_getLsbD (b : Bitmap) (w : Nat) (v : Word) (i : Nat) (hi : i < Config.nSrc) :
    (setBitmapWord b w v).getLsbD i =
      if 32 * w ≤ i ∧ i < 32 * w + 32 then v.getLsbD (i - 32 * w) else b.getLsbD i := by
  unfold setBitmapWord
  simp only [BitVec.getLsbD_or, BitVec.getLsbD_and, BitVec.getLsbD_not, BitVec.getLsbD_shiftLeft,
    BitVec.getLsbD_setWidth, BitVec.getLsbD_allOnes, hi, decide_true, Bool.true_and]
  by_cases h1 : i < 32 * w
  · have : ¬ (32 * w ≤ i) := by omega
    simp [h1, this]
  · by_cases h2 : i < 32 * w + 32
    · have : i - 32 * w < 32 := by omega
      have h3 : 32 * w ≤ i := by omega
      have h4 : i - 32 * w < Config.nSrc := by omega
      simp [h1, h2, h3, this, h4]
    · have h5 : ¬ (i - 32 * w < 32) := by omega
      have h6 : v.getLsbD (i - 32 * w) = false := BitVec.getLsbD_of_ge _ _ (by omega)
      simp [h1, h2, h5, h6]

/-- The datum in the carrier has the same value. -/
theorem zext_toNat {n : Nat} (v : BitVec n) (h : n ≤ 64) : (zext v).toNat = v.toNat := by
  have hv : v.toNat < 2 ^ 64 := lt_of_lt_of_le v.isLt (Nat.pow_le_pow_right (by omega) h)
  rw [zext, BitVec.toNat_setWidth, Nat.mod_eq_of_lt hv]

/-- The low byte of a joined value (20_memory.md R74). -/
theorem lowByte_joinByte (b : Byte) (rest : Carrier) : lowByte (joinByte b rest) = b := by
  apply BitVec.eq_of_getLsbD_eq
  intro i hi
  simp [lowByte, joinByte, hi]

/-- A bit of a joined value. -/
theorem joinByte_getLsbD (b : Byte) (rest : Carrier) (i : Nat) (hi : i < 64) :
    (joinByte b rest).getLsbD i = if i < 8 then b.getLsbD i else rest.getLsbD (i - 8) := by
  by_cases h : i < 8
  · simp [joinByte, hi, h]
  · have hb : b.getLsbD i = false := BitVec.getLsbD_of_ge _ _ (by omega)
    have hi8 : i - 8 < 64 := by omega
    simp [joinByte, hi, h, hb, BitVec.getLsbD_eq_getElem hi8]

end Sys2Proof.Machine
end

