-- ==== Sys2Proof/Laws/Encoding.lean ====
section
/-!
SUPPORT. The address map as lemmas: which device owns an address, where the PLIC's and the SoC's registers
lie, and what the free SoC layout is known to satisfy (00_scope.md R8).
-/
namespace Sys2Proof

open Config in
/-- `route` says the address map of 20_memory.md R71. -/
theorem route_ram (o : Nat) (h : o < ramSize) : route (ramBase + o) = some .ram := by
  simp only [route, ramBase, ramSize, plicBase, plicSize, uartBase, uartSize, socBase, socSize] at h ⊢
  rw [if_neg (by omega), if_neg (by omega), if_neg (by omega), if_pos (by omega)]

open Config in
theorem route_plic (o : Nat) (h : o < plicSize) : route (plicBase + o) = some .plic := by
  simp only [route, plicBase, plicSize] at h ⊢
  rw [if_pos (by omega)]

open Config in
theorem route_uart (o : Nat) (h : o < uartSize) : route (uartBase + o) = some .uart := by
  simp only [route, plicBase, plicSize, uartBase, uartSize] at h ⊢
  rw [if_neg (by omega), if_pos (by omega)]

open Config in
theorem route_soc (o : Nat) (h : o < socSize) : route (socBase + o) = some .soc := by
  simp only [route, plicBase, plicSize, uartBase, uartSize, socBase, socSize] at h ⊢
  rw [if_neg (by omega), if_neg (by omega), if_pos (by omega)]

theorem contextNumber_lt (c : Context) : contextNumber c < 2 := by cases c <;> decide

theorem contextOf_contextNumber (c : Context) : contextOf (contextNumber c) = some c := by
  cases c <;> rfl

open Config in
/-- The PLIC's parameters (00_scope.md R7), for arithmetic over the register map. -/
theorem plic_map : plicSize = 0x4000000 ∧ nSrc = 0x400 ∧ plicPrioOff = 0 ∧ plicPendOff = 0x1000 ∧
    plicPendEnd = 0x1080 ∧ plicEnOff = 0x2000 ∧ plicEnStride = 0x80 ∧ plicEnEnd = 0x1F2000 ∧
    plicCtxOff = 0x200000 ∧ plicCtxStride = 0x1000 := ⟨rfl, rfl, rfl, rfl, rfl, rfl, rfl, rfl, rfl, rfl⟩

open Config in
/-- Every PLIC register lies in the window and at a multiple of 4. -/
theorem plicOffset_lt (r : PlicReg) : plicOffset r < plicSize ∧ plicOffset r % 4 = 0 := by
  obtain ⟨_, _, _, _, _, _, _, _, _, _⟩ := plic_map
  cases r with
  | prio i =>
    have := i.isLt
    simp only [plicOffset]; omega
  | pend w =>
    have := w.isLt
    simp only [plicOffset]; omega
  | en c w =>
    have := w.isLt
    have := contextNumber_lt c
    simp only [plicOffset, plicEnStride]; omega
  | thr c =>
    have := contextNumber_lt c
    simp only [plicOffset, plicCtxStride]; omega
  | claim c =>
    have := contextNumber_lt c
    simp only [plicOffset, plicCtxStride]; omega

/-- Two ranges are apart when one is empty or ends before the other begins. -/
theorem apart_iff (a la b lb : Nat) :
    Config.apart a la b lb = true ↔ la = 0 ∨ lb = 0 ∨ a + la ≤ b ∨ b + lb ≤ a := by
  simp only [Config.apart, Bool.or_eq_true, decide_eq_true_eq, or_assoc]

open Config in
/-- R8's constraints on the layout, as linear facts: in the window, aligned, pairwise disjoint (an empty
pixel buffer shares no byte with any register). -/
theorem socLayout_facts :
    (socLayout.offTime + 8 ≤ socSize ∧ socLayout.offFbctl + 8 ≤ socSize ∧
      socLayout.offKbd + 4 ≤ socSize ∧ socLayout.offPoweroff + 1 ≤ socSize ∧
      socLayout.offPix + socLayout.pixBytes ≤ socSize) ∧
    (socLayout.offTime % 8 = 0 ∧ socLayout.offFbctl % 8 = 0 ∧ socLayout.offKbd % 4 = 0 ∧
      socLayout.offPix % 4 = 0 ∧ socLayout.pixBytes % 4 = 0) ∧
    ((socLayout.offTime + 8 ≤ socLayout.offFbctl ∨ socLayout.offFbctl + 8 ≤ socLayout.offTime) ∧
      (socLayout.offTime + 8 ≤ socLayout.offKbd ∨ socLayout.offKbd + 4 ≤ socLayout.offTime) ∧
      (socLayout.offTime + 8 ≤ socLayout.offPoweroff ∨
        socLayout.offPoweroff + 1 ≤ socLayout.offTime) ∧
      (socLayout.pixBytes = 0 ∨ socLayout.offTime + 8 ≤ socLayout.offPix ∨
        socLayout.offPix + socLayout.pixBytes ≤ socLayout.offTime)) ∧
    ((socLayout.offFbctl + 8 ≤ socLayout.offKbd ∨ socLayout.offKbd + 4 ≤ socLayout.offFbctl) ∧
      (socLayout.offFbctl + 8 ≤ socLayout.offPoweroff ∨
        socLayout.offPoweroff + 1 ≤ socLayout.offFbctl) ∧
      (socLayout.pixBytes = 0 ∨ socLayout.offFbctl + 8 ≤ socLayout.offPix ∨
        socLayout.offPix + socLayout.pixBytes ≤ socLayout.offFbctl)) ∧
    ((socLayout.offKbd + 4 ≤ socLayout.offPoweroff ∨
        socLayout.offPoweroff + 1 ≤ socLayout.offKbd) ∧
      (socLayout.pixBytes = 0 ∨ socLayout.offKbd + 4 ≤ socLayout.offPix ∨
        socLayout.offPix + socLayout.pixBytes ≤ socLayout.offKbd)) ∧
    (socLayout.pixBytes = 0 ∨ socLayout.offPoweroff + 1 ≤ socLayout.offPix ∨
      socLayout.offPix + socLayout.pixBytes ≤ socLayout.offPoweroff) := by
  have h := socLayout_ok
  simp only [SocLayout.ok, apart_iff, Bool.and_eq_true, decide_eq_true_eq] at h
  obtain ⟨⟨⟨⟨⟨⟨⟨⟨⟨a1, a2⟩, b1, b2⟩, c1, c2⟩, d1⟩, ⟨e1, e2⟩, e3⟩, ⟨⟨f1, f2⟩, f3⟩, f4⟩,
    ⟨g1, g2⟩, g3⟩, h1, h2⟩, i1⟩ := h
  exact ⟨⟨a1, b1, c1, d1, e1⟩, ⟨a2, b2, c2, e2, e3⟩, ⟨by omega, by omega, by omega, by omega⟩,
    ⟨by omega, by omega, by omega⟩, ⟨by omega, by omega⟩, by omega⟩

/-- The SoC registers that exist: every named one, and the words of the pixel buffer. -/
def socRegOk (r : SocReg) : Prop :=
  match r with
  | .pix j => j < Config.pixWords
  | .time | .fbLo | .fbHi | .kbd | .poweroff => True

/-- Every SoC register lies in the window. -/
theorem socOffset_lt (r : SocReg) (h : socRegOk r) :
    socOffset Config.socLayout r < Config.socSize := by
  obtain ⟨⟨h1, h2, h3, h4, h5⟩, ⟨-, -, -, -, h6⟩, -⟩ := socLayout_facts
  cases r with
  | pix j => simp only [socRegOk, Config.pixWords, socOffset] at h ⊢; omega
  | _ => simp only [socOffset]; omega

/-! ### The register selected at a register's own offset -/

/-- A width is the width of its number of bytes. -/
theorem widthOf_bytes (w : Width) : widthOf w.bytes = some w := by cases w <;> rfl

/-- The priority table's entries (30_encoding.md R105). -/
theorem plicSelect_prio (i : SourceId) (h : i ≠ 0) :
    plicSelect (Config.plicPrioOff + 4 * i.val) = some (.prio i) := by
  obtain ⟨_, _, _, _, _, _, _, _, _, _⟩ := plic_map
  have := i.isLt
  have h0 : i.val ≠ 0 := fun e => h (Fin.ext e)
  unfold plicSelect
  rw [if_neg (by omega), if_pos (by omega), if_neg (by omega), Nat.add_sub_cancel_left,
    Nat.mul_div_cancel_left _ (by decide)]
  simp only [Option.some.injEq, PlicReg.prio.injEq]
  exact Fin.ext (Nat.mod_eq_of_lt i.isLt)

/-- The words of the pending bitmap (R105). -/
theorem plicSelect_pend (w : Fin 32) :
    plicSelect (Config.plicPendOff + 4 * w.val) = some (.pend w) := by
  obtain ⟨_, _, _, _, _, _, _, _, _, _⟩ := plic_map
  have := w.isLt
  unfold plicSelect
  rw [if_neg (by omega), if_neg (by omega), if_pos (by omega), Nat.add_sub_cancel_left,
    Nat.mul_div_cancel_left _ (by decide)]
  simp only [Option.some.injEq, PlicReg.pend.injEq]
  exact Fin.ext (Nat.mod_eq_of_lt w.isLt)

/-- The enable words of the contexts (R105). -/
theorem plicSelect_en (c : Context) (w : Fin 32) :
    plicSelect (Config.plicEnOff + Config.plicEnStride * contextNumber c + 4 * w.val) =
      some (.en c w) := by
  obtain ⟨_, _, _, _, _, _, es, _, _, _⟩ := plic_map
  have := w.isLt
  have := contextNumber_lt c
  rw [es]
  unfold plicSelect
  rw [if_neg (by omega), if_neg (by omega), if_neg (by omega), if_neg (by omega), if_pos (by omega), es,
    show Config.plicEnOff + 0x80 * contextNumber c + 4 * w.val - Config.plicEnOff =
      0x80 * contextNumber c + 4 * w.val by omega,
    show (0x80 * contextNumber c + 4 * w.val) / 0x80 = contextNumber c by omega,
    show (0x80 * contextNumber c + 4 * w.val) % 0x80 / 4 = w.val by omega, contextOf_contextNumber]
  simp only [Option.some.injEq, PlicReg.en.injEq, true_and]
  exact Fin.ext (Nat.mod_eq_of_lt w.isLt)

/-- The register selected at a register's offset is that register (30_encoding.md R105). -/
theorem plicSelect_offset (r : PlicReg) (h : ∀ i, r = .prio i → i ≠ 0) :
    plicSelect (plicOffset r) = some r := by
  cases r with
  | prio i => exact plicSelect_prio i (h i rfl)
  | pend w => exact plicSelect_pend w
  | en c w => exact plicSelect_en c w
  | thr c => cases c <;> rfl
  | claim c => cases c <;> rfl

/-- The register selected at a SoC register's offset is that register (30_encoding.md R106). -/
theorem socSelect_offset (r : SocReg) (h : socRegOk r) :
    socSelect Config.socLayout (socOffset Config.socLayout r) = some r := by
  obtain ⟨-, ⟨-, -, -, -, h6⟩, ⟨_, _, _, p1⟩, ⟨_, _, p2⟩, ⟨_, p3⟩, p4⟩ := socLayout_facts
  cases r with
  | pix j =>
    simp only [socRegOk, Config.pixWords] at h
    have hp : Config.socLayout.pixBytes ≠ 0 := by omega
    replace p1 := p1.resolve_left hp
    replace p2 := p2.resolve_left hp
    replace p3 := p3.resolve_left hp
    replace p4 := p4.resolve_left hp
    have hj : 4 * j < Config.socLayout.pixBytes := by omega
    clear h h6 hp
    show socSelect Config.socLayout (Config.socLayout.offPix + 4 * j) = _
    unfold socSelect
    rw [if_neg (by clear p2 p3 p4; omega), if_neg (by clear p1 p3 p4; omega),
      if_neg (by clear p1 p3 p4; omega), if_neg (by clear p1 p2 p4; omega),
      if_neg (by clear p1 p2 p3; omega), if_pos (by omega), Nat.add_sub_cancel_left,
      Nat.mul_div_cancel_left _ (by decide)]
  | time =>
    exact if_pos rfl
  | fbLo =>
    clear p1 p2 p3 p4
    show socSelect Config.socLayout Config.socLayout.offFbctl = _
    unfold socSelect
    rw [if_neg (by omega), if_pos rfl]
  | fbHi =>
    clear p1 p2 p3 p4
    show socSelect Config.socLayout (Config.socLayout.offFbctl + 4) = _
    unfold socSelect
    rw [if_neg (by omega), if_neg (by omega), if_pos rfl]
  | kbd =>
    clear p1 p2 p3 p4
    show socSelect Config.socLayout Config.socLayout.offKbd = _
    unfold socSelect
    rw [if_neg (by omega), if_neg (by omega), if_neg (by omega), if_pos rfl]
  | poweroff =>
    clear p1 p2 p3 p4
    show socSelect Config.socLayout Config.socLayout.offPoweroff = _
    unfold socSelect
    rw [if_neg (by omega), if_neg (by omega), if_neg (by omega), if_neg (by omega), if_pos rfl]

/-! ### The decoder at a register's own address -/

/-- A READ at a PLIC register's address reaches the PLIC at its offset. -/
theorem decode_plicRead (dlab : Bool) (r : PlicReg) :
    decode dlab (plicRead r) = decodePlicRead (plicOffset r) .w4 := by
  have h := route_plic _ (plicOffset_lt r).1
  unfold plicRead plicAddress decode decodeRead
  simp only [widthOf, h]
  rw [Nat.add_sub_cancel_left]

/-- A WRITE at a PLIC register's address reaches the PLIC at its offset. -/
theorem decode_plicWrite (dlab : Bool) (r : PlicReg) (v : Word) :
    decode dlab (plicWrite r v) = decodePlicWrite (plicOffset r) .w4 v := by
  have h := route_plic _ (plicOffset_lt r).1
  unfold plicWrite plicAddress decode decodeWrite
  simp only [widthOf, h]
  rw [Nat.add_sub_cancel_left]
  simp

/-- A READ at a UART register's address reaches the UART at its offset. -/
theorem decode_uartRead (dlab : Bool) (o : Nat) (ho : o < Config.uartSize) :
    decode dlab (uartRead o) = decodeUartRead dlab o .w1 := by
  have h := route_uart o ho
  unfold uartRead decode decodeRead
  simp only [widthOf, h]
  rw [Nat.add_sub_cancel_left]

/-- A WRITE at a UART register's address reaches the UART at its offset. -/
theorem decode_uartWrite (dlab : Bool) (o : Nat) (v : Byte) (ho : o < Config.uartSize) :
    decode dlab (uartWrite o v) = decodeUartWrite dlab o .w1 v := by
  have h := route_uart o ho
  unfold uartWrite decode decodeWrite
  simp only [widthOf, h]
  rw [Nat.add_sub_cancel_left]
  simp

/-- A READ at a SoC register's address reaches the SoC device at its offset. -/
theorem decode_socRead (dlab : Bool) (r : SocReg) (h : socRegOk r) :
    decode dlab (socRead r) = decodeSocRead (socOffset Config.socLayout r) (socWidth r) := by
  have h := route_soc _ (socOffset_lt r h)
  unfold socRead decode decodeRead
  simp only [widthOf_bytes, h]
  rw [Nat.add_sub_cancel_left]

/-- A WRITE at a SoC register's address reaches the SoC device at its offset. -/
theorem decode_socWrite (dlab : Bool) (r : SocReg) (h : socRegOk r) (v : Carrier) :
    decode dlab (socWrite r v) = decodeSocWrite (socOffset Config.socLayout r) (socWidth r) v := by
  have h := route_soc _ (socOffset_lt r h)
  unfold socWrite decode decodeWrite
  simp only [widthOf_bytes, h]
  rw [Nat.add_sub_cancel_left]

/-- A value that fits the width is not truncated (00_scope.md R13). -/
theorem truncTo_of_lt (w : Width) (v : Carrier) (h : v.toNat < 2 ^ (8 * w.bytes)) :
    truncTo w v = v := by
  cases w <;> simp only [truncTo, Width.bytes] at * <;>
  (apply BitVec.eq_of_toNat_eq; simp; omega)

end Sys2Proof
end

