-- ==== Sys2Proof/Laws/Decode.lean ====
section
/-!
SUPPORT. What the decoder does with an arbitrary address, said once: the device and the OFFSET it hands an
access to (as a variable, so that no proof needs to compute `a - base`), and what each offset selects.
-/
namespace Sys2Proof

/-- A size is a width or selects nothing (20_memory.md R75). -/
theorem widthOf_cases (n : Nat) :
    (widthOf n = none ∧ n ≠ 1 ∧ n ≠ 2 ∧ n ≠ 4 ∧ n ≠ 8) ∨ ∃ w, widthOf n = some w ∧ n = w.bytes := by
  unfold widthOf
  split
  · exact .inr ⟨.w1, rfl, rfl⟩
  · exact .inr ⟨.w2, rfl, rfl⟩
  · exact .inr ⟨.w4, rfl, rfl⟩
  · exact .inr ⟨.w8, rfl, rfl⟩
  · rename_i h1 h2 h3 h4; exact .inl ⟨rfl, h1, h2, h3, h4⟩

/-- An address lies at an offset of one device, or of none (20_memory.md R71, R72). -/
theorem route_cases (a : Nat) :
    (∃ o, a = Config.ramBase + o ∧ o < Config.ramSize ∧ route a = some .ram) ∨
    (∃ o, a = Config.plicBase + o ∧ o < Config.plicSize ∧ route a = some .plic) ∨
    (∃ o, a = Config.uartBase + o ∧ o < Config.uartSize ∧ route a = some .uart) ∨
    (∃ o, a = Config.socBase + o ∧ o < Config.socSize ∧ route a = some .soc) ∨
    (route a = none ∧ (a < Config.plicBase ∨ Config.plicBase + Config.plicSize ≤ a) ∧
      (a < Config.uartBase ∨ Config.uartBase + Config.uartSize ≤ a) ∧
      (a < Config.socBase ∨ Config.socBase + Config.socSize ≤ a) ∧
      (a < Config.ramBase ∨ Config.ramBase + Config.ramSize ≤ a)) := by
  by_cases h1 : Config.plicBase ≤ a ∧ a < Config.plicBase + Config.plicSize
  · obtain ⟨o, rfl⟩ := Nat.exists_eq_add_of_le h1.1
    have h : o < Config.plicSize := by omega
    exact .inr (.inl ⟨o, rfl, h, route_plic o h⟩)
  by_cases h2 : Config.uartBase ≤ a ∧ a < Config.uartBase + Config.uartSize
  · obtain ⟨o, rfl⟩ := Nat.exists_eq_add_of_le h2.1
    have h : o < Config.uartSize := by omega
    exact .inr (.inr (.inl ⟨o, rfl, h, route_uart o h⟩))
  by_cases h3 : Config.socBase ≤ a ∧ a < Config.socBase + Config.socSize
  · obtain ⟨o, rfl⟩ := Nat.exists_eq_add_of_le h3.1
    have h : o < Config.socSize := by omega
    exact .inr (.inr (.inr (.inl ⟨o, rfl, h, route_soc o h⟩)))
  by_cases h4 : Config.ramBase ≤ a ∧ a < Config.ramBase + Config.ramSize
  · obtain ⟨o, rfl⟩ := Nat.exists_eq_add_of_le h4.1
    have h : o < Config.ramSize := by omega
    exact .inl ⟨o, rfl, h, route_ram o h⟩
  · refine .inr (.inr (.inr (.inr ⟨?_, by omega, by omega, by omega, by omega⟩)))
    unfold route
    rw [if_neg h1, if_neg h2, if_neg h3, if_neg h4]

/-- Every device lies in the `ADDR_BITS`-bit space: an address beyond it matches no range (20_memory.md R72,
D42). -/
theorem route_lt (a : Nat) (d : Device) (h : route a = some d) : a < 2 ^ Config.addrBits := by
  have p : 2 ^ Config.addrBits = 0x100000000 := rfl
  have e : Config.plicBase + Config.plicSize = 0x10000000 := rfl
  rcases route_cases a with ⟨o, rfl, ho, _⟩ | ⟨o, rfl, ho, _⟩ | ⟨o, rfl, ho, _⟩ | ⟨o, rfl, ho, _⟩ | ⟨hr, _⟩
  · have : Config.ramBase + Config.ramSize = 0xC0000000 := rfl
    omega
  · omega
  · have : Config.uartBase + Config.uartSize = 0x10000008 := rfl
    omega
  · have : Config.socBase + Config.socSize = 0x30000000 := rfl
    omega
  · rw [h] at hr; cases hr

/-- What a READ decodes to: no width, no range, or what the device at the address gives for its offset
(40_bus_memory.md R130). -/
theorem decodeRead_cases (dlab : Bool) (a n : Nat) :
    (widthOf n = none ∧ decodeRead dlab a n = .rejected .badWidth) ∨
    ∃ w, n = w.bytes ∧
      ((∃ o, a = Config.ramBase + o ∧ o < Config.ramSize ∧ decodeRead dlab a n = decodeRamRead o w) ∨
      (∃ o, a = Config.plicBase + o ∧ o < Config.plicSize ∧ decodeRead dlab a n = decodePlicRead o w) ∨
      (∃ o, a = Config.uartBase + o ∧ o < Config.uartSize ∧
        decodeRead dlab a n = decodeUartRead dlab o w) ∨
      (∃ o, a = Config.socBase + o ∧ o < Config.socSize ∧ decodeRead dlab a n = decodeSocRead o w) ∨
      (route a = none ∧ decodeRead dlab a n = .rejected .noRange)) := by
  unfold decodeRead
  rcases widthOf_cases n with ⟨h, -⟩ | ⟨w, h, hn⟩
  · exact .inl ⟨h, by rw [h]⟩
  · refine .inr ⟨w, hn, ?_⟩
    rw [h]
    rcases route_cases a with ⟨o, rfl, ho, hr⟩ | ⟨o, rfl, ho, hr⟩ | ⟨o, rfl, ho, hr⟩ | ⟨o, rfl, ho, hr⟩ |
      ⟨hr, -⟩
    · exact .inl ⟨o, rfl, ho, by rw [hr, Nat.add_sub_cancel_left]⟩
    · exact .inr (.inl ⟨o, rfl, ho, by rw [hr, Nat.add_sub_cancel_left]⟩)
    · exact .inr (.inr (.inl ⟨o, rfl, ho, by rw [hr, Nat.add_sub_cancel_left]⟩))
    · exact .inr (.inr (.inr (.inl ⟨o, rfl, ho, by rw [hr, Nat.add_sub_cancel_left]⟩)))
    · exact .inr (.inr (.inr (.inr ⟨hr, by rw [hr]⟩)))

/-- What a WRITE decodes to (40_bus_memory.md R131). -/
theorem decodeWrite_cases (dlab : Bool) (a n : Nat) (v : Carrier) :
    (widthOf n = none ∧ decodeWrite dlab a n v = .rejected .badWidth) ∨
    ∃ w, n = w.bytes ∧
      ((∃ o, a = Config.ramBase + o ∧ o < Config.ramSize ∧
        decodeWrite dlab a n v = decodeRamWrite o w v) ∨
      (∃ o, a = Config.plicBase + o ∧ o < Config.plicSize ∧
        decodeWrite dlab a n v = decodePlicWrite o w (v.setWidth 32)) ∨
      (∃ o, a = Config.uartBase + o ∧ o < Config.uartSize ∧
        decodeWrite dlab a n v = decodeUartWrite dlab o w (v.setWidth 8)) ∨
      (∃ o, a = Config.socBase + o ∧ o < Config.socSize ∧
        decodeWrite dlab a n v = decodeSocWrite o w v) ∨
      (route a = none ∧ decodeWrite dlab a n v = .rejected .noRange)) := by
  unfold decodeWrite
  rcases widthOf_cases n with ⟨h, -⟩ | ⟨w, h, hn⟩
  · exact .inl ⟨h, by rw [h]⟩
  · refine .inr ⟨w, hn, ?_⟩
    rw [h]
    rcases route_cases a with ⟨o, rfl, ho, hr⟩ | ⟨o, rfl, ho, hr⟩ | ⟨o, rfl, ho, hr⟩ | ⟨o, rfl, ho, hr⟩ |
      ⟨hr, -⟩
    · exact .inl ⟨o, rfl, ho, by rw [hr, Nat.add_sub_cancel_left]⟩
    · exact .inr (.inl ⟨o, rfl, ho, by rw [hr, Nat.add_sub_cancel_left]⟩)
    · exact .inr (.inr (.inl ⟨o, rfl, ho, by rw [hr, Nat.add_sub_cancel_left]⟩))
    · exact .inr (.inr (.inr (.inl ⟨o, rfl, ho, by rw [hr, Nat.add_sub_cancel_left]⟩)))
    · exact .inr (.inr (.inr (.inr ⟨hr, by rw [hr]⟩)))

/-- The PLIC's gaps (41_plic.md R175, R176): what an offset selects nothing at. -/
theorem plicSelect_gap (o : Nat) (h : o % 4 ≠ 0 ∨ o = 0 ∨ (0x1080 ≤ o ∧ o < 0x2000) ∨
    (0x2100 ≤ o ∧ o < 0x200000) ∨ (0x200008 ≤ o ∧ o < 0x201000) ∨ 0x201008 ≤ o) :
    plicSelect o = none := by
  obtain ⟨-, c0, c8, c1, c2, c3, c6, c4, c5, c7⟩ := plic_map
  unfold plicSelect
  by_cases h0 : o % 4 ≠ 0
  · rw [if_pos h0]
  rw [if_neg h0]
  by_cases h1 : o < Config.plicPendOff
  · rw [if_pos h1, if_pos (by omega)]
  rw [if_neg h1, if_neg (by omega)]
  by_cases h2 : o < Config.plicEnOff
  · rw [if_pos h2]
  rw [if_neg h2]
  by_cases h3 : o < Config.plicEnEnd
  · have e : contextOf ((o - Config.plicEnOff) / Config.plicEnStride) = none := by
      exact if_neg (by rw [c6, show Config.nCtx = 2 from rfl]; omega)
    rw [if_pos h3, e]
  rw [if_neg h3]
  by_cases h4 : o < Config.plicCtxOff
  · rw [if_pos h4]
  rw [if_neg h4]
  generalize hk : (o - Config.plicCtxOff) / Config.plicCtxStride = k
  generalize hs : (o - Config.plicCtxOff) % Config.plicCtxStride = t
  rw [c7] at hk hs
  rcases k with _ | _ | k
  · obtain ⟨t, rfl⟩ : ∃ j, t = j + 5 := ⟨t - 5, by omega⟩
    rfl
  · obtain ⟨t, rfl⟩ : ∃ j, t = j + 5 := ⟨t - 5, by omega⟩
    rfl
  · rw [show contextOf (k + 1 + 1) = none from if_neg (by show ¬ (k + 1 + 1 < 2); omega)]

/-- The register an offset of the PLIC selects has that offset, and is not source-id 0's priority
(30_encoding.md R105). -/
theorem plicSelect_some (o : Nat) (r : PlicReg) (h : plicSelect o = some r) :
    plicOffset r = o ∧ ∀ i, r = .prio i → i ≠ 0 := by
  obtain ⟨-, c0, c8, c1, c2, c3, c6, c4, c5, c7⟩ := plic_map
  by_cases hg : o % 4 ≠ 0 ∨ o = 0 ∨ (0x1080 ≤ o ∧ o < 0x2000) ∨ (0x2100 ≤ o ∧ o < 0x200000) ∨
      (0x200008 ≤ o ∧ o < 0x201000) ∨ 0x201008 ≤ o
  · rw [plicSelect_gap o hg] at h; cases h
  · by_cases h1 : o < 0x1000
    · have hv : (Fin.ofNat Config.nSrc (o / 4)).val = o / 4 := Nat.mod_eq_of_lt (by omega)
      have hi : Fin.ofNat Config.nSrc (o / 4) ≠ 0 := by
        intro e
        have h0 : (Fin.ofNat Config.nSrc (o / 4)).val = 0 := congrArg Fin.val e
        omega
      have e := plicSelect_prio _ hi
      rw [hv, show Config.plicPrioOff + 4 * (o / 4) = o by omega, h] at e
      cases e
      exact ⟨by rw [plicOffset, hv]; omega, fun i hr => by cases hr; exact hi⟩
    · by_cases h2 : o < 0x1080
      · have hv : (Fin.ofNat 32 ((o - 0x1000) / 4)).val = (o - 0x1000) / 4 :=
          Nat.mod_eq_of_lt (by omega)
        have e := plicSelect_pend (Fin.ofNat 32 ((o - 0x1000) / 4))
        rw [hv, show Config.plicPendOff + 4 * ((o - 0x1000) / 4) = o by omega, h] at e
        cases e
        exact ⟨by rw [plicOffset, hv]; omega, fun i hr => by cases hr⟩
      · by_cases h3 : o < 0x2100
        · obtain ⟨c, hc⟩ : ∃ c, (o - 0x2000) / 0x80 = contextNumber c := by
            rcases show (o - 0x2000) / 0x80 = 0 ∨ (o - 0x2000) / 0x80 = 1 by omega with e | e
            · exact ⟨.machine, e⟩
            · exact ⟨.supervisor, e⟩
          have hv : (Fin.ofNat 32 ((o - 0x2000) % 0x80 / 4)).val = (o - 0x2000) % 0x80 / 4 :=
            Nat.mod_eq_of_lt (by omega)
          have e := plicSelect_en c (Fin.ofNat 32 ((o - 0x2000) % 0x80 / 4))
          have ho : Config.plicEnOff + Config.plicEnStride * contextNumber c +
              4 * ((o - 0x2000) % 0x80 / 4) = o := by rw [c6, ← hc]; omega
          rw [hv, ho, h] at e
          cases e
          exact ⟨by rw [plicOffset, hv, ho], fun i hr => by cases hr⟩
        · have ho : o = 0x200000 ∨ o = 0x200004 ∨ o = 0x201000 ∨ o = 0x201004 := by omega
          rcases ho with rfl | rfl | rfl | rfl
          · have e : plicSelect 0x200000 = some (.thr .machine) := rfl
            rw [h] at e; cases e; exact ⟨rfl, fun i hr => by cases hr⟩
          · have e : plicSelect 0x200004 = some (.claim .machine) := rfl
            rw [h] at e; cases e; exact ⟨rfl, fun i hr => by cases hr⟩
          · have e : plicSelect 0x201000 = some (.thr .supervisor) := rfl
            rw [h] at e; cases e; exact ⟨rfl, fun i hr => by cases hr⟩
          · have e : plicSelect 0x201004 = some (.claim .supervisor) := rfl
            rw [h] at e; cases e; exact ⟨rfl, fun i hr => by cases hr⟩

/-- The register an offset of the SoC window selects exists and has that offset (30_encoding.md R106). -/
theorem socSelect_some (o : Nat) (r : SocReg) (h : socSelect Config.socLayout o = some r) :
    socOffset Config.socLayout r = o ∧ socRegOk r := by
  unfold socSelect at h
  split_ifs at h with h1 h2 h3 h4 h5 h6 <;> cases h
  · exact ⟨h1.symm, trivial⟩
  · exact ⟨h2.symm, trivial⟩
  · exact ⟨h3.symm, trivial⟩
  · exact ⟨h4.symm, trivial⟩
  · exact ⟨h5.symm, trivial⟩
  · obtain ⟨_, ⟨_, _, _, _, h7⟩, _⟩ := socLayout_facts
    exact ⟨by simp only [socOffset]; omega, by simp only [socRegOk, Config.pixWords]; omega⟩

end Sys2Proof
end

