-- ==== Sys2Proof/Laws/State.lean ====
section
/-!
SUPPORT. One lemma per field per update of the state records, true by `rfl` and tagged `@[simp]`, so that
no proof unfolds an update.
-/
namespace Sys2Proof.Machine

/-! ### `State` -/

@[simp] theorem State.withPlic_bus (s : State) (p : Plic) : (s.withPlic p).bus = s.bus := rfl
@[simp] theorem State.withPlic_ram (s : State) (p : Plic) : (s.withPlic p).ram = s.ram := rfl
@[simp] theorem State.withPlic_plic (s : State) (p : Plic) : (s.withPlic p).plic = p := rfl
@[simp] theorem State.withPlic_uart (s : State) (p : Plic) : (s.withPlic p).uart = s.uart := rfl
@[simp] theorem State.withPlic_soc (s : State) (p : Plic) : (s.withPlic p).soc = s.soc := rfl
@[simp] theorem State.withPlic_trace (s : State) (p : Plic) : (s.withPlic p).trace = s.trace := rfl
@[simp] theorem State.withPlic_resp (s : State) (p : Plic) : (s.withPlic p).resp = s.resp := rfl
@[simp] theorem State.withPlic_hostKeys (s : State) (p : Plic) : (s.withPlic p).hostKeys = s.hostKeys := rfl
@[simp] theorem State.withPlic_clockDraws (s : State) (p : Plic) : (s.withPlic p).clockDraws = s.clockDraws := rfl
@[simp] theorem State.withPlic_toBlock (s : State) (p : Plic) :
    (s.withPlic p).toBlock = { s.toBlock with plic := p } := rfl
@[simp] theorem State.withPlic_toInputs (s : State) (p : Plic) :
    (s.withPlic p).toInputs = s.toInputs := rfl

@[simp] theorem State.withUart_bus (s : State) (u : Uart) : (s.withUart u).bus = s.bus := rfl
@[simp] theorem State.withUart_ram (s : State) (u : Uart) : (s.withUart u).ram = s.ram := rfl
@[simp] theorem State.withUart_plic (s : State) (u : Uart) : (s.withUart u).plic = s.plic := rfl
@[simp] theorem State.withUart_uart (s : State) (u : Uart) : (s.withUart u).uart = u := rfl
@[simp] theorem State.withUart_soc (s : State) (u : Uart) : (s.withUart u).soc = s.soc := rfl
@[simp] theorem State.withUart_trace (s : State) (u : Uart) : (s.withUart u).trace = s.trace := rfl
@[simp] theorem State.withUart_resp (s : State) (u : Uart) : (s.withUart u).resp = s.resp := rfl
@[simp] theorem State.withUart_hostKeys (s : State) (u : Uart) : (s.withUart u).hostKeys = s.hostKeys := rfl
@[simp] theorem State.withUart_clockDraws (s : State) (u : Uart) : (s.withUart u).clockDraws = s.clockDraws := rfl
@[simp] theorem State.withUart_toBlock (s : State) (u : Uart) :
    (s.withUart u).toBlock = { s.toBlock with uart := u } := rfl
@[simp] theorem State.withUart_toInputs (s : State) (u : Uart) :
    (s.withUart u).toInputs = s.toInputs := rfl

@[simp] theorem State.withSoc_bus (s : State) (d : Soc) : (s.withSoc d).bus = s.bus := rfl
@[simp] theorem State.withSoc_ram (s : State) (d : Soc) : (s.withSoc d).ram = s.ram := rfl
@[simp] theorem State.withSoc_plic (s : State) (d : Soc) : (s.withSoc d).plic = s.plic := rfl
@[simp] theorem State.withSoc_uart (s : State) (d : Soc) : (s.withSoc d).uart = s.uart := rfl
@[simp] theorem State.withSoc_soc (s : State) (d : Soc) : (s.withSoc d).soc = d := rfl
@[simp] theorem State.withSoc_trace (s : State) (d : Soc) : (s.withSoc d).trace = s.trace := rfl
@[simp] theorem State.withSoc_resp (s : State) (d : Soc) : (s.withSoc d).resp = s.resp := rfl
@[simp] theorem State.withSoc_hostKeys (s : State) (d : Soc) : (s.withSoc d).hostKeys = s.hostKeys := rfl
@[simp] theorem State.withSoc_clockDraws (s : State) (d : Soc) : (s.withSoc d).clockDraws = s.clockDraws := rfl
@[simp] theorem State.withSoc_toBlock (s : State) (d : Soc) :
    (s.withSoc d).toBlock = { s.toBlock with soc := d } := rfl
@[simp] theorem State.withSoc_toInputs (s : State) (d : Soc) :
    (s.withSoc d).toInputs = s.toInputs := rfl

@[simp] theorem State.withRam_bus (s : State) (m : Memory) : (s.withRam m).bus = s.bus := rfl
@[simp] theorem State.withRam_ram (s : State) (m : Memory) : (s.withRam m).ram = m := rfl
@[simp] theorem State.withRam_plic (s : State) (m : Memory) : (s.withRam m).plic = s.plic := rfl
@[simp] theorem State.withRam_uart (s : State) (m : Memory) : (s.withRam m).uart = s.uart := rfl
@[simp] theorem State.withRam_soc (s : State) (m : Memory) : (s.withRam m).soc = s.soc := rfl
@[simp] theorem State.withRam_trace (s : State) (m : Memory) : (s.withRam m).trace = s.trace := rfl
@[simp] theorem State.withRam_resp (s : State) (m : Memory) : (s.withRam m).resp = s.resp := rfl
@[simp] theorem State.withRam_hostKeys (s : State) (m : Memory) : (s.withRam m).hostKeys = s.hostKeys := rfl
@[simp] theorem State.withRam_clockDraws (s : State) (m : Memory) : (s.withRam m).clockDraws = s.clockDraws := rfl
@[simp] theorem State.withRam_toBlock (s : State) (m : Memory) :
    (s.withRam m).toBlock = { s.toBlock with ram := m } := rfl
@[simp] theorem State.withRam_toInputs (s : State) (m : Memory) :
    (s.withRam m).toInputs = s.toInputs := rfl

@[simp] theorem State.withBus_bus (s : State) (b : Bus) : (s.withBus b).bus = b := rfl
@[simp] theorem State.withBus_ram (s : State) (b : Bus) : (s.withBus b).ram = s.ram := rfl
@[simp] theorem State.withBus_plic (s : State) (b : Bus) : (s.withBus b).plic = s.plic := rfl
@[simp] theorem State.withBus_uart (s : State) (b : Bus) : (s.withBus b).uart = s.uart := rfl
@[simp] theorem State.withBus_soc (s : State) (b : Bus) : (s.withBus b).soc = s.soc := rfl
@[simp] theorem State.withBus_trace (s : State) (b : Bus) : (s.withBus b).trace = s.trace := rfl
@[simp] theorem State.withBus_resp (s : State) (b : Bus) : (s.withBus b).resp = s.resp := rfl
@[simp] theorem State.withBus_hostKeys (s : State) (b : Bus) : (s.withBus b).hostKeys = s.hostKeys := rfl
@[simp] theorem State.withBus_clockDraws (s : State) (b : Bus) : (s.withBus b).clockDraws = s.clockDraws := rfl
@[simp] theorem State.withBus_toBlock (s : State) (b : Bus) :
    (s.withBus b).toBlock = { s.toBlock with bus := b } := rfl
@[simp] theorem State.withBus_toInputs (s : State) (b : Bus) :
    (s.withBus b).toInputs = s.toInputs := rfl

@[simp] theorem State.respond_bus (s : State) (r : Response) : (s.respond r).bus = s.bus := rfl
@[simp] theorem State.respond_ram (s : State) (r : Response) : (s.respond r).ram = s.ram := rfl
@[simp] theorem State.respond_plic (s : State) (r : Response) : (s.respond r).plic = s.plic := rfl
@[simp] theorem State.respond_uart (s : State) (r : Response) : (s.respond r).uart = s.uart := rfl
@[simp] theorem State.respond_soc (s : State) (r : Response) : (s.respond r).soc = s.soc := rfl
@[simp] theorem State.respond_trace (s : State) (r : Response) : (s.respond r).trace = s.trace := rfl
@[simp] theorem State.respond_resp (s : State) (r : Response) : (s.respond r).resp = r := rfl
@[simp] theorem State.respond_hostKeys (s : State) (r : Response) : (s.respond r).hostKeys = s.hostKeys := rfl
@[simp] theorem State.respond_clockDraws (s : State) (r : Response) : (s.respond r).clockDraws = s.clockDraws := rfl
@[simp] theorem State.respond_toBlock (s : State) (r : Response) :
    (s.respond r).toBlock = s.toBlock := rfl
@[simp] theorem State.respond_toInputs (s : State) (r : Response) :
    (s.respond r).toInputs = s.toInputs := rfl

@[simp] theorem State.clockDrawn_bus (s : State) : s.clockDrawn.bus = s.bus := rfl
@[simp] theorem State.clockDrawn_ram (s : State) : s.clockDrawn.ram = s.ram := rfl
@[simp] theorem State.clockDrawn_plic (s : State) : s.clockDrawn.plic = s.plic := rfl
@[simp] theorem State.clockDrawn_uart (s : State) : s.clockDrawn.uart = s.uart := rfl
@[simp] theorem State.clockDrawn_soc (s : State) : s.clockDrawn.soc = s.soc := rfl
@[simp] theorem State.clockDrawn_trace (s : State) : s.clockDrawn.trace = s.trace := rfl
@[simp] theorem State.clockDrawn_resp (s : State) : s.clockDrawn.resp = s.resp := rfl
@[simp] theorem State.clockDrawn_hostKeys (s : State) : s.clockDrawn.hostKeys = s.hostKeys := rfl
@[simp] theorem State.clockDrawn_clockDraws (s : State) : s.clockDrawn.clockDraws = s.clockDraws + 1 := rfl
@[simp] theorem State.clockDrawn_toBlock (s : State) :
    s.clockDrawn.toBlock = s.toBlock := rfl
@[simp] theorem State.clockDrawn_toInputs (s : State) :
    s.clockDrawn.toInputs = { s.toInputs with clockDraws := s.clockDraws + 1 } := rfl

@[simp] theorem State.supplyKeys_bus (s : State) (ks : List Word) : (s.supplyKeys ks).bus = s.bus := rfl
@[simp] theorem State.supplyKeys_ram (s : State) (ks : List Word) : (s.supplyKeys ks).ram = s.ram := rfl
@[simp] theorem State.supplyKeys_plic (s : State) (ks : List Word) : (s.supplyKeys ks).plic = s.plic := rfl
@[simp] theorem State.supplyKeys_uart (s : State) (ks : List Word) : (s.supplyKeys ks).uart = s.uart := rfl
@[simp] theorem State.supplyKeys_soc (s : State) (ks : List Word) : (s.supplyKeys ks).soc = s.soc := rfl
@[simp] theorem State.supplyKeys_trace (s : State) (ks : List Word) : (s.supplyKeys ks).trace = s.trace := rfl
@[simp] theorem State.supplyKeys_resp (s : State) (ks : List Word) : (s.supplyKeys ks).resp = s.resp := rfl
@[simp] theorem State.supplyKeys_hostKeys (s : State) (ks : List Word) : (s.supplyKeys ks).hostKeys = s.hostKeys ++ ks := rfl
@[simp] theorem State.supplyKeys_clockDraws (s : State) (ks : List Word) : (s.supplyKeys ks).clockDraws = s.clockDraws := rfl
@[simp] theorem State.supplyKeys_toBlock (s : State) (ks : List Word) :
    (s.supplyKeys ks).toBlock = s.toBlock := rfl
@[simp] theorem State.supplyKeys_toInputs (s : State) (ks : List Word) :
    (s.supplyKeys ks).toInputs = { s.toInputs with hostKeys := s.hostKeys ++ ks } := rfl

@[simp] theorem State.issue_bus (s : State) (r : Request) : (s.issue r).bus = s.bus := rfl
@[simp] theorem State.issue_ram (s : State) (r : Request) : (s.issue r).ram = s.ram := rfl
@[simp] theorem State.issue_plic (s : State) (r : Request) : (s.issue r).plic = s.plic := rfl
@[simp] theorem State.issue_uart (s : State) (r : Request) : (s.issue r).uart = s.uart := rfl
@[simp] theorem State.issue_soc (s : State) (r : Request) : (s.issue r).soc = s.soc := rfl
@[simp] theorem State.issue_trace (s : State) (r : Request) : (s.issue r).trace = r :: s.trace := rfl
@[simp] theorem State.issue_resp (s : State) (r : Request) : (s.issue r).resp = s.resp := rfl
@[simp] theorem State.issue_hostKeys (s : State) (r : Request) : (s.issue r).hostKeys = s.hostKeys := rfl
@[simp] theorem State.issue_clockDraws (s : State) (r : Request) : (s.issue r).clockDraws = s.clockDraws := rfl
@[simp] theorem State.issue_toBlock (s : State) (r : Request) :
    (s.issue r).toBlock = s.toBlock := rfl
@[simp] theorem State.issue_toInputs (s : State) (r : Request) :
    (s.issue r).toInputs = { s.toInputs with trace := r :: s.trace } := rfl

@[simp] theorem State.raiseAccessFault_eq (s : State) : s.raiseAccessFault = s.respond .accessFault := rfl
@[simp] theorem State.readAnswer_eq {n : Nat} (s : State) (v : BitVec n) :
    s.readAnswer v = s.respond (.value (zext v)) := rfl
@[simp] theorem State.respond_respond (s : State) (r r' : Response) :
    (s.respond r).respond r' = s.respond r' := rfl

/-! ### `Uart` -/

@[simp] theorem Uart.setOe_lcr (u : Uart) (b : Bool) : (u.setOe b).lcr = u.lcr := rfl
@[simp] theorem Uart.setOe_ier (u : Uart) (b : Bool) : (u.setOe b).ier = u.ier := rfl
@[simp] theorem Uart.setOe_iir (u : Uart) (b : Bool) : (u.setOe b).iir = u.iir := rfl
@[simp] theorem Uart.setOe_mcr (u : Uart) (b : Bool) : (u.setOe b).mcr = u.mcr := rfl
@[simp] theorem Uart.setOe_lsr (u : Uart) (b : Bool) : (u.setOe b).lsr = setBit u.lsr 1 b := rfl
@[simp] theorem Uart.setOe_scr (u : Uart) (b : Bool) : (u.setOe b).scr = u.scr := rfl
@[simp] theorem Uart.setOe_fcr (u : Uart) (b : Bool) : (u.setOe b).fcr = u.fcr := rfl
@[simp] theorem Uart.setOe_dll (u : Uart) (b : Bool) : (u.setOe b).dll = u.dll := rfl
@[simp] theorem Uart.setOe_dlh (u : Uart) (b : Bool) : (u.setOe b).dlh = u.dlh := rfl
@[simp] theorem Uart.setOe_rxq (u : Uart) (b : Bool) : (u.setOe b).rxq = u.rxq := rfl
@[simp] theorem Uart.setOe_txq (u : Uart) (b : Bool) : (u.setOe b).txq = u.txq := rfl
@[simp] theorem Uart.setOe_printed (u : Uart) (b : Bool) : (u.setOe b).printed = u.printed := rfl

@[simp] theorem Uart.setDr_lcr (u : Uart) (b : Bool) : (u.setDr b).lcr = u.lcr := rfl
@[simp] theorem Uart.setDr_ier (u : Uart) (b : Bool) : (u.setDr b).ier = u.ier := rfl
@[simp] theorem Uart.setDr_iir (u : Uart) (b : Bool) : (u.setDr b).iir = u.iir := rfl
@[simp] theorem Uart.setDr_mcr (u : Uart) (b : Bool) : (u.setDr b).mcr = u.mcr := rfl
@[simp] theorem Uart.setDr_lsr (u : Uart) (b : Bool) : (u.setDr b).lsr = setBit u.lsr 0 b := rfl
@[simp] theorem Uart.setDr_scr (u : Uart) (b : Bool) : (u.setDr b).scr = u.scr := rfl
@[simp] theorem Uart.setDr_fcr (u : Uart) (b : Bool) : (u.setDr b).fcr = u.fcr := rfl
@[simp] theorem Uart.setDr_dll (u : Uart) (b : Bool) : (u.setDr b).dll = u.dll := rfl
@[simp] theorem Uart.setDr_dlh (u : Uart) (b : Bool) : (u.setDr b).dlh = u.dlh := rfl
@[simp] theorem Uart.setDr_rxq (u : Uart) (b : Bool) : (u.setDr b).rxq = u.rxq := rfl
@[simp] theorem Uart.setDr_txq (u : Uart) (b : Bool) : (u.setDr b).txq = u.txq := rfl
@[simp] theorem Uart.setDr_printed (u : Uart) (b : Bool) : (u.setDr b).printed = u.printed := rfl

@[simp] theorem Uart.setClrRx_lcr (u : Uart) (b : Bool) : (u.setClrRx b).lcr = setBit u.lcr 1 b := rfl
@[simp] theorem Uart.setClrRx_ier (u : Uart) (b : Bool) : (u.setClrRx b).ier = u.ier := rfl
@[simp] theorem Uart.setClrRx_iir (u : Uart) (b : Bool) : (u.setClrRx b).iir = u.iir := rfl
@[simp] theorem Uart.setClrRx_mcr (u : Uart) (b : Bool) : (u.setClrRx b).mcr = u.mcr := rfl
@[simp] theorem Uart.setClrRx_lsr (u : Uart) (b : Bool) : (u.setClrRx b).lsr = u.lsr := rfl
@[simp] theorem Uart.setClrRx_scr (u : Uart) (b : Bool) : (u.setClrRx b).scr = u.scr := rfl
@[simp] theorem Uart.setClrRx_fcr (u : Uart) (b : Bool) : (u.setClrRx b).fcr = u.fcr := rfl
@[simp] theorem Uart.setClrRx_dll (u : Uart) (b : Bool) : (u.setClrRx b).dll = u.dll := rfl
@[simp] theorem Uart.setClrRx_dlh (u : Uart) (b : Bool) : (u.setClrRx b).dlh = u.dlh := rfl
@[simp] theorem Uart.setClrRx_rxq (u : Uart) (b : Bool) : (u.setClrRx b).rxq = u.rxq := rfl
@[simp] theorem Uart.setClrRx_txq (u : Uart) (b : Bool) : (u.setClrRx b).txq = u.txq := rfl
@[simp] theorem Uart.setClrRx_printed (u : Uart) (b : Bool) : (u.setClrRx b).printed = u.printed := rfl

@[simp] theorem Uart.setClrTx_lcr (u : Uart) (b : Bool) : (u.setClrTx b).lcr = setBit u.lcr 2 b := rfl
@[simp] theorem Uart.setClrTx_ier (u : Uart) (b : Bool) : (u.setClrTx b).ier = u.ier := rfl
@[simp] theorem Uart.setClrTx_iir (u : Uart) (b : Bool) : (u.setClrTx b).iir = u.iir := rfl
@[simp] theorem Uart.setClrTx_mcr (u : Uart) (b : Bool) : (u.setClrTx b).mcr = u.mcr := rfl
@[simp] theorem Uart.setClrTx_lsr (u : Uart) (b : Bool) : (u.setClrTx b).lsr = u.lsr := rfl
@[simp] theorem Uart.setClrTx_scr (u : Uart) (b : Bool) : (u.setClrTx b).scr = u.scr := rfl
@[simp] theorem Uart.setClrTx_fcr (u : Uart) (b : Bool) : (u.setClrTx b).fcr = u.fcr := rfl
@[simp] theorem Uart.setClrTx_dll (u : Uart) (b : Bool) : (u.setClrTx b).dll = u.dll := rfl
@[simp] theorem Uart.setClrTx_dlh (u : Uart) (b : Bool) : (u.setClrTx b).dlh = u.dlh := rfl
@[simp] theorem Uart.setClrTx_rxq (u : Uart) (b : Bool) : (u.setClrTx b).rxq = u.rxq := rfl
@[simp] theorem Uart.setClrTx_txq (u : Uart) (b : Bool) : (u.setClrTx b).txq = u.txq := rfl
@[simp] theorem Uart.setClrTx_printed (u : Uart) (b : Bool) : (u.setClrTx b).printed = u.printed := rfl

@[simp] theorem Uart.setTxReady_lcr (u : Uart) : u.setTxReady.lcr = u.lcr := rfl
@[simp] theorem Uart.setTxReady_ier (u : Uart) : u.setTxReady.ier = u.ier := rfl
@[simp] theorem Uart.setTxReady_iir (u : Uart) : u.setTxReady.iir = u.iir := rfl
@[simp] theorem Uart.setTxReady_mcr (u : Uart) : u.setTxReady.mcr = u.mcr := rfl
@[simp] theorem Uart.setTxReady_lsr (u : Uart) : u.setTxReady.lsr = setBit (setBit u.lsr 6 true) 5 true := rfl
@[simp] theorem Uart.setTxReady_scr (u : Uart) : u.setTxReady.scr = u.scr := rfl
@[simp] theorem Uart.setTxReady_fcr (u : Uart) : u.setTxReady.fcr = u.fcr := rfl
@[simp] theorem Uart.setTxReady_dll (u : Uart) : u.setTxReady.dll = u.dll := rfl
@[simp] theorem Uart.setTxReady_dlh (u : Uart) : u.setTxReady.dlh = u.dlh := rfl
@[simp] theorem Uart.setTxReady_rxq (u : Uart) : u.setTxReady.rxq = u.rxq := rfl
@[simp] theorem Uart.setTxReady_txq (u : Uart) : u.setTxReady.txq = u.txq := rfl
@[simp] theorem Uart.setTxReady_printed (u : Uart) : u.setTxReady.printed = u.printed := rfl

@[simp] theorem Uart.receive_lcr (u : Uart) (b : Byte) : (u.receive b).lcr = u.lcr := rfl
@[simp] theorem Uart.receive_ier (u : Uart) (b : Byte) : (u.receive b).ier = u.ier := rfl
@[simp] theorem Uart.receive_iir (u : Uart) (b : Byte) : (u.receive b).iir = u.iir := rfl
@[simp] theorem Uart.receive_mcr (u : Uart) (b : Byte) : (u.receive b).mcr = u.mcr := rfl
@[simp] theorem Uart.receive_lsr (u : Uart) (b : Byte) : (u.receive b).lsr = u.lsr := rfl
@[simp] theorem Uart.receive_scr (u : Uart) (b : Byte) : (u.receive b).scr = u.scr := rfl
@[simp] theorem Uart.receive_fcr (u : Uart) (b : Byte) : (u.receive b).fcr = u.fcr := rfl
@[simp] theorem Uart.receive_dll (u : Uart) (b : Byte) : (u.receive b).dll = u.dll := rfl
@[simp] theorem Uart.receive_dlh (u : Uart) (b : Byte) : (u.receive b).dlh = u.dlh := rfl
@[simp] theorem Uart.receive_rxq (u : Uart) (b : Byte) : (u.receive b).rxq = u.rxq ++ [b] := rfl
@[simp] theorem Uart.receive_txq (u : Uart) (b : Byte) : (u.receive b).txq = u.txq := rfl
@[simp] theorem Uart.receive_printed (u : Uart) (b : Byte) : (u.receive b).printed = u.printed := rfl

@[simp] theorem Uart.sendOut_lcr (u : Uart) (b : Byte) : (u.sendOut b).lcr = u.lcr := rfl
@[simp] theorem Uart.sendOut_ier (u : Uart) (b : Byte) : (u.sendOut b).ier = u.ier := rfl
@[simp] theorem Uart.sendOut_iir (u : Uart) (b : Byte) : (u.sendOut b).iir = u.iir := rfl
@[simp] theorem Uart.sendOut_mcr (u : Uart) (b : Byte) : (u.sendOut b).mcr = u.mcr := rfl
@[simp] theorem Uart.sendOut_lsr (u : Uart) (b : Byte) : (u.sendOut b).lsr = u.lsr := rfl
@[simp] theorem Uart.sendOut_scr (u : Uart) (b : Byte) : (u.sendOut b).scr = u.scr := rfl
@[simp] theorem Uart.sendOut_fcr (u : Uart) (b : Byte) : (u.sendOut b).fcr = u.fcr := rfl
@[simp] theorem Uart.sendOut_dll (u : Uart) (b : Byte) : (u.sendOut b).dll = u.dll := rfl
@[simp] theorem Uart.sendOut_dlh (u : Uart) (b : Byte) : (u.sendOut b).dlh = u.dlh := rfl
@[simp] theorem Uart.sendOut_rxq (u : Uart) (b : Byte) : (u.sendOut b).rxq = u.rxq := rfl
@[simp] theorem Uart.sendOut_txq (u : Uart) (b : Byte) : (u.sendOut b).txq = u.txq ++ [b] := rfl
@[simp] theorem Uart.sendOut_printed (u : Uart) (b : Byte) : (u.sendOut b).printed = u.printed ++ [b] := rfl

@[simp] theorem Uart.clkIdentify_lcr (u : Uart) : u.clkIdentify.lcr = u.lcr := rfl
@[simp] theorem Uart.clkIdentify_ier (u : Uart) : u.clkIdentify.ier = u.ier := rfl
@[simp] theorem Uart.clkIdentify_iir (u : Uart) : u.clkIdentify.iir = u.identification := rfl
@[simp] theorem Uart.clkIdentify_mcr (u : Uart) : u.clkIdentify.mcr = u.mcr := rfl
@[simp] theorem Uart.clkIdentify_lsr (u : Uart) : u.clkIdentify.lsr = u.lsr := rfl
@[simp] theorem Uart.clkIdentify_scr (u : Uart) : u.clkIdentify.scr = u.scr := rfl
@[simp] theorem Uart.clkIdentify_fcr (u : Uart) : u.clkIdentify.fcr = u.fcr := rfl
@[simp] theorem Uart.clkIdentify_dll (u : Uart) : u.clkIdentify.dll = u.dll := rfl
@[simp] theorem Uart.clkIdentify_dlh (u : Uart) : u.clkIdentify.dlh = u.dlh := rfl
@[simp] theorem Uart.clkIdentify_rxq (u : Uart) : u.clkIdentify.rxq = u.rxq := rfl
@[simp] theorem Uart.clkIdentify_txq (u : Uart) : u.clkIdentify.txq = u.txq := rfl
@[simp] theorem Uart.clkIdentify_printed (u : Uart) : u.clkIdentify.printed = u.printed := rfl

/-! ### `Plic` -/

@[simp] theorem Plic.withCtx_prio (p : Plic) (c : Context) (x : PlicCtx) :
    (p.withCtx c x).prio = p.prio := by cases c <;> rfl
@[simp] theorem Plic.withCtx_pend (p : Plic) (c : Context) (x : PlicCtx) :
    (p.withCtx c x).pend = p.pend := by cases c <;> rfl
@[simp] theorem Plic.withCtx_upd (p : Plic) (c : Context) (x : PlicCtx) :
    (p.withCtx c x).upd = p.upd := by cases c <;> rfl
@[simp] theorem Plic.withCtx_ctx_same (p : Plic) (c : Context) (x : PlicCtx) :
    (p.withCtx c x).ctx c = x := by cases c <;> rfl
theorem Plic.withCtx_ctx_other (p : Plic) (c c' : Context) (x : PlicCtx) (h : c' ≠ c) :
    (p.withCtx c x).ctx c' = p.ctx c' := by cases c <;> cases c' <;> first | rfl | exact absurd rfl h
@[simp] theorem Plic.withCtx_prioOf (p : Plic) (c : Context) (x : PlicCtx) (i : Nat) :
    (p.withCtx c x).prioOf i = p.prioOf i := by cases c <;> rfl
@[simp] theorem Plic.withCtx_self (p : Plic) (c : Context) : p.withCtx c (p.ctx c) = p := by cases c <;> rfl
@[simp] theorem Plic.setUpd_prio (p : Plic) (b : Bool) : (p.setUpd b).prio = p.prio := rfl
@[simp] theorem Plic.setUpd_pend (p : Plic) (b : Bool) : (p.setUpd b).pend = p.pend := rfl
@[simp] theorem Plic.setUpd_m (p : Plic) (b : Bool) : (p.setUpd b).m = p.m := rfl
@[simp] theorem Plic.setUpd_s (p : Plic) (b : Bool) : (p.setUpd b).s = p.s := rfl
@[simp] theorem Plic.setUpd_upd (p : Plic) (b : Bool) : (p.setUpd b).upd = b := rfl
@[simp] theorem Plic.setUpd_ctx (p : Plic) (b : Bool) (c : Context) : (p.setUpd b).ctx c = p.ctx c := by
  cases c <;> rfl

/-! ### `Soc` -/

@[simp] theorem Soc.present_kbd (d : Soc) : d.present.kbd = d.kbd := rfl
@[simp] theorem Soc.present_pix (d : Soc) : d.present.pix = d.pix := rfl
@[simp] theorem Soc.present_poff (d : Soc) : d.present.poff = d.poff := rfl
@[simp] theorem Soc.present_cmdq (d : Soc) : d.present.cmdq = d.cmdq := rfl
@[simp] theorem Soc.present_presents (d : Soc) : d.present.presents = d.presents + 1 := rfl
@[simp] theorem Soc.present_frames (d : Soc) : d.present.frames = d.frames ++ [d.pix] := rfl

@[simp] theorem Soc.sendPoweroff_kbd (d : Soc) : d.sendPoweroff.kbd = d.kbd := by
  unfold Soc.sendPoweroff; split <;> rfl
@[simp] theorem Soc.sendPoweroff_pix (d : Soc) : d.sendPoweroff.pix = d.pix := by
  unfold Soc.sendPoweroff; split <;> rfl
@[simp] theorem Soc.sendPoweroff_presents (d : Soc) : d.sendPoweroff.presents = d.presents := by
  unfold Soc.sendPoweroff; split <;> rfl
@[simp] theorem Soc.sendPoweroff_frames (d : Soc) : d.sendPoweroff.frames = d.frames := by
  unfold Soc.sendPoweroff; split <;> rfl
@[simp] theorem Soc.clk_kbd (d : Soc) (ks : List Word) : (d.clk ks).kbd = d.kbd ++ ks := by
  simp [Soc.clk]
@[simp] theorem Soc.clk_pix (d : Soc) (ks : List Word) : (d.clk ks).pix = d.pix := by
  simp [Soc.clk]
@[simp] theorem Soc.clk_presents (d : Soc) (ks : List Word) : (d.clk ks).presents = d.presents := by
  simp [Soc.clk]
@[simp] theorem Soc.clk_frames (d : Soc) (ks : List Word) : (d.clk ks).frames = d.frames := by
  simp [Soc.clk]

end Sys2Proof.Machine
end

