-- ==== Sys2Proof/Laws/Devices.lean ====
section
/-!
SUPPORT. What each operation of the UART, of the SoC-auxiliary device and of the queues can do, said once
(42_uart.md R201, R203, R221; 43_soc_aux.md R254, R258; 44_channel_host.md R281 to R283).
-/
namespace Sys2Proof.Machine

/-! ### The UART -/

/-- What a data-register read does (R201). -/
theorem Uart.readData_cases (u : Uart) :
    ((u.bi = true ∨ u.rxq = []) ∧ u.readData = (0#8, u)) ∨
    (∃ b rest, u.bi = false ∧ u.rxq = b :: rest ∧
      u.readData = (b, if Config.uartRbrClearsDr && rest.isEmpty then
        ({ u.setOe false with rxq := rest } : Uart).setDr false
        else { u.setOe false with rxq := rest })) := by
  unfold Uart.readData
  cases hb : u.bi
  · cases hq : u.rxq with
    | nil => left; simp
    | cons b rest => right; exact ⟨b, rest, by simp⟩
  · left; simp

/-- What a data-register write does (R203). -/
theorem Uart.writeData_cases (u : Uart) (v : Byte) :
    (u.fen = false ∧ u.dr = true ∧ u.writeData v = u.setOe true) ∨
    ((u.fen = true ∨ u.dr = false) ∧ u.loop = true ∧ u.writeData v = u.setTxReady.receive v) ∨
    ((u.fen = true ∨ u.dr = false) ∧ u.loop = false ∧ u.writeData v = u.setTxReady.sendOut v) := by
  unfold Uart.writeData
  cases hf : u.fen <;> cases hd : u.dr <;> cases hl : u.loop <;> simp

/-- The queues and registers a driven tick leaves alone (R221). -/
theorem Uart.clk_frame (u : Uart) :
    u.clk.ier = u.ier ∧ u.clk.mcr = u.mcr ∧ u.clk.scr = u.scr ∧ u.clk.fcr = u.fcr ∧
    u.clk.dll = u.dll ∧ u.clk.dlh = u.dlh ∧ u.clk.txq = u.txq ∧ u.clk.printed = u.printed := by
  unfold Uart.clk Uart.clkForceReady Uart.clkServe Uart.clkClearTx Uart.clkClearRx Uart.clkDataReady
  split <;> split <;> split <;> split <;> simp

@[simp] theorem Uart.clkServe_ier (u : Uart) : u.clkServe.ier = u.ier := by
  unfold Uart.clkServe Uart.clkClearTx Uart.clkClearRx Uart.clkDataReady
  split <;> split <;> split <;> simp

/-- The identification a driven tick computes (R221 step 4). -/
theorem Uart.clk_iir (u : Uart) : u.clk.iir = u.clkServe.identification := by
  unfold Uart.clk Uart.clkForceReady
  split <;> simp

/-- The identification takes one of four values (10_state.md R34). -/
theorem Uart.identification_values (u : Uart) :
    u.identification ∈ [0x01#8, 0x02#8, 0x04#8, 0x06#8] := by
  unfold Uart.identification
  cases u.rdi <;> cases u.thri <;> decide

/-! ### The SoC-auxiliary device -/

/-- What a keyboard read does (R254). -/
theorem Soc.readKey_cases (d : Soc) :
    (d.kbd = [] ∧ d.readKey = (0#32, d)) ∨
    (∃ k rest, d.kbd = k :: rest ∧ d.readKey = (k, { d with kbd := rest })) := by
  unfold Soc.readKey
  cases h : d.kbd with
  | nil => exact .inl ⟨rfl, rfl⟩
  | cons k rest => exact .inr ⟨k, rest, rfl, rfl⟩

/-- What `SOC.clk` does (R258). -/
theorem Soc.clk_cases (d : Soc) (ks : List Word) :
    (d.poff = true ∧ d.clk ks =
      { d with kbd := d.kbd ++ ks, cmdq := d.cmdq ++ [.poweroff], poff := false }) ∨
    (d.poff = false ∧ d.clk ks = { d with kbd := d.kbd ++ ks }) := by
  unfold Soc.clk Soc.sendPoweroff
  cases h : d.poff <;> simp

/-! ### The queues -/

/-- A pop on an empty queue waits and changes nothing (R282, R284). -/
theorem State.pop_empty (s : State) (q : Queue) (h : s.queue q = []) : s.pop q = s.respond .waits := by
  simp [State.pop, h]

/-- A pop on a queue that holds a value takes its head (R282). -/
theorem State.pop_cons (s : State) (q : Queue) (v : ChanVal) (rest : List ChanVal)
    (h : s.queue q = v :: rest) : s.pop q = (s.dropHead q).respond (.received v) := by
  simp [State.pop, h]

/-- The queue without its head is the rest. -/
theorem State.queue_dropHead (s : State) (q : Queue) :
    (s.dropHead q).queue q = (s.queue q).tail := by
  cases q <;> simp [State.queue, State.dropHead]

/-- A cleared queue is empty (R283). -/
theorem State.queue_clear (s : State) (q : Queue) : (s.clear q).queue q = [] := by
  cases q <;> simp [State.queue, State.clear]

/-! ### The driven tick -/

/-- A driven tick, piece by piece (40_bus_memory.md R132, R133). -/
theorem State.drivenTick_eq (s : State) :
    s.drivenTick = { s with
      plic := s.plic.irq Config.uartIrq.val s.uart.clkServe.line
      uart := s.uart.clk
      soc := s.soc.clk s.hostKeys
      hostKeys := [] } := rfl

/-- What CLK can do (R132). -/
theorem State.busClk_cases (s : State) :
    (s.bus.div + 1 = Config.clkDiv ∧ s.busClk = (s.withBus { div := 0 }).drivenTick) ∨
    (s.bus.div + 1 ≠ Config.clkDiv ∧ s.busClk = s.withBus { div := s.bus.div + 1 }) := by
  unfold State.busClk
  split
  · rename_i h; exact .inl ⟨h, rfl⟩
  · rename_i h; exact .inr ⟨h, rfl⟩

end Sys2Proof.Machine
end

