-- ==== Sys2Proof/Laws/Memory.lean ====
section
/-!
SUPPORT. The laws of the sparse stores and of RAM and the pixel buffer built on them: read after write,
frames, the canonical form kept, and equality of canonical stores that read the same.
-/
namespace Sys2Proof.Machine

section Sparse
variable {α : Type} (d : Nat → α)

theorem sparseGet_insert (m : List (Nat × α)) (k i : Nat) (v : α) :
    sparseGet d (sparseInsert m k v) i = if i = k then v else sparseGet d m i := by
  induction m with
  | nil => simp [sparseInsert, sparseGet]
  | cons e t ih =>
    obtain ⟨j, x⟩ := e
    simp only [sparseInsert]
    split
    · simp [sparseGet]
    · split
      · rename_i h; subst h
        by_cases hi : i = k <;> simp [sparseGet, hi]
      · simp only [sparseGet, ih]
        by_cases hi : i = j
        · simp [hi, show j ≠ k by omega]
        · simp [hi]

theorem sparseGet_erase (m : List (Nat × α)) (k i : Nat) :
    sparseGet d (sparseErase m k) i = if i = k then d k else sparseGet d m i := by
  induction m with
  | nil => by_cases h : i = k <;> simp [sparseErase, sparseGet, h]
  | cons e t ih =>
    obtain ⟨j, x⟩ := e
    simp only [sparseErase] at ih ⊢
    by_cases hj : j = k
    · subst hj
      have hne : (j != j) = false := by simp
      simp only [List.filter, hne, sparseGet, ih]
      split <;> rfl
    · have : (j != k) = true := by simp [hj]
      simp only [List.filter, this, sparseGet, ih]
      by_cases hi : i = j
      · simp [hi, hj]
      · simp [hi]

/-- Read after write. -/
theorem sparseGet_set [DecidableEq α] (m : List (Nat × α)) (k i : Nat) (v : α) :
    sparseGet d (sparseSet d m k v) i = if i = k then v else sparseGet d m i := by
  unfold sparseSet
  split
  · rename_i h; rw [sparseGet_erase, h]
  · exact sparseGet_insert d m k i v

theorem sparseAbove_insert (m : List (Nat × α)) (b k : Nat) (v : α) :
    sparseAbove b (sparseInsert m k v) = (decide (b < k) && sparseAbove b m) ∨
    sparseAbove b (sparseInsert m k v) = sparseAbove b m := by
  induction m with
  | nil => simp [sparseInsert, sparseAbove]
  | cons e t ih =>
    obtain ⟨j, x⟩ := e
    simp only [sparseInsert]
    split
    · left; simp [sparseAbove]
    · split
      · rename_i h; subst h; right; simp [sparseAbove]
      · simp only [sparseAbove, List.all_cons] at ih ⊢
        rcases ih with h | h
        · left; rw [h]; cases decide (b < j) <;> cases decide (b < k) <;> simp
        · right; rw [h]

theorem sparseAbove_insert_of_lt (m : List (Nat × α)) (b k : Nat) (v : α) (hk : b < k)
    (h : sparseAbove b m = true) : sparseAbove b (sparseInsert m k v) = true := by
  rcases sparseAbove_insert m b k v with e | e <;> simp [e, h, hk]

theorem sparseAbove_mono (m : List (Nat × α)) (a b : Nat) (hab : a ≤ b)
    (h : sparseAbove b m = true) : sparseAbove a m = true := by
  simp only [sparseAbove, List.all_eq_true, decide_eq_true_eq] at h ⊢
  intro e he
  exact lt_of_le_of_lt hab (h e he)

theorem sparseWf_insert [DecidableEq α] (m : List (Nat × α)) (k : Nat) (v : α) (hv : v ≠ d k)
    (h : sparseWf d m = true) : sparseWf d (sparseInsert m k v) = true := by
  induction m with
  | nil => simp [sparseInsert, sparseWf, sparseAbove, hv]
  | cons e t ih =>
    obtain ⟨j, x⟩ := e
    simp only [sparseWf, Bool.and_eq_true, decide_eq_true_eq] at h
    obtain ⟨⟨hx, ha⟩, hw⟩ := h
    simp only [sparseInsert]
    split
    · rename_i hkj
      have : sparseAbove k t = true := sparseAbove_mono t k j (by omega) ha
      have hk : sparseAbove k ((j, x) :: t) = true := by
        simp only [sparseAbove, List.all_cons, Bool.and_eq_true, decide_eq_true_eq] at this ⊢
        exact ⟨hkj, this⟩
      simp only [sparseWf, hk, hw, ha, Bool.and_true, Bool.and_eq_true, decide_eq_true_eq]
      exact ⟨hv, hx⟩
    · split
      · rename_i h1 h2; subst h2
        simp [sparseWf, hv, ha, hw]
      · simp only [sparseWf, Bool.and_eq_true, decide_eq_true_eq]
        exact ⟨⟨hx, sparseAbove_insert_of_lt t j k v (by omega) ha⟩, ih hw⟩

theorem sparseWf_erase [DecidableEq α] (m : List (Nat × α)) (k : Nat) (h : sparseWf d m = true) :
    sparseWf d (sparseErase m k) = true := by
  induction m with
  | nil => exact h
  | cons e t ih =>
    obtain ⟨j, x⟩ := e
    simp only [sparseWf, Bool.and_eq_true, decide_eq_true_eq] at h
    obtain ⟨⟨hx, ha⟩, hw⟩ := h
    have hab : sparseAbove j (sparseErase t k) = true := by
      simp only [sparseAbove, List.all_eq_true, decide_eq_true_eq] at ha ⊢
      intro e he
      exact ha e (List.mem_of_mem_filter he)
    simp only [sparseErase] at ih hab ⊢
    by_cases hj : (j != k) = true
    · simp only [List.filter, hj, sparseWf, Bool.and_eq_true, decide_eq_true_eq]
      exact ⟨⟨hx, hab⟩, ih hw⟩
    · simp only [List.filter, hj]
      exact ih hw

/-- A write keeps the canonical form. -/
theorem sparseWf_set [DecidableEq α] (m : List (Nat × α)) (k : Nat) (v : α) (h : sparseWf d m = true) :
    sparseWf d (sparseSet d m k v) = true := by
  unfold sparseSet
  split
  · exact sparseWf_erase d m k h
  · rename_i hv; exact sparseWf_insert d m k v hv h

/-- What a write keeps of every listed key, if it holds of the key written. -/
theorem sparse_all_set [DecidableEq α] (p : Nat → Bool) (m : List (Nat × α)) (k : Nat) (v : α) (hk : p k = true)
    (h : m.all (fun e => p e.1) = true) : (sparseSet d m k v).all (fun e => p e.1) = true := by
  unfold sparseSet
  split
  · simp only [sparseErase, List.all_eq_true] at h ⊢
    intro e he
    exact h e (List.mem_of_mem_filter he)
  · clear * - hk h
    induction m with
    | nil => simp [sparseInsert, hk]
    | cons e t ih =>
      obtain ⟨j, x⟩ := e
      simp only [List.all_cons, Bool.and_eq_true] at h
      simp only [sparseInsert]
      split
      · simp [hk, h.1]
        exact fun a b hb => List.all_eq_true.mp h.2 (a, b) hb
      · split
        · simp only [List.all_cons, Bool.and_eq_true]; exact ⟨hk, h.2⟩
        · simp only [List.all_cons, Bool.and_eq_true]; exact ⟨h.1, ih h.2⟩

theorem sparseGet_of_above (m : List (Nat × α)) (k : Nat) (h : sparseAbove k m = true) :
    sparseGet d m k = d k := by
  induction m with
  | nil => rfl
  | cons e t ih =>
    obtain ⟨j, x⟩ := e
    simp only [sparseAbove, List.all_cons, Bool.and_eq_true, decide_eq_true_eq] at h
    have : k ≠ j := by omega
    simp only [sparseGet, this, if_false]
    exact ih h.2

end Sparse

/-! ### RAM -/

/-- Reading a byte after a byte was written (20_memory.md R78). -/
theorem Memory.readByte_writeByte (m : Memory) (a i : Nat) (b : Byte) :
    (m.writeByte a b).readByte i = if i = a then b else m.readByte i :=
  sparseGet_set Memory.initial m a i b

/-- A write of bytes leaves every byte outside them alone (40_bus_memory.md R137). -/
theorem Memory.write_readByte_outside (m : Memory) (a n : Nat) (v : Carrier) (i : Nat)
    (h : i < a ∨ a + n ≤ i) : (m.write a n v).readByte i = m.readByte i := by
  induction n generalizing m a v with
  | zero => rfl
  | succ n ih =>
    rw [Memory.write, ih _ _ _ (by omega), Memory.readByte_writeByte, if_neg (by omega)]

/-- A byte written inside RAM keeps the canonical form. -/
theorem Memory.wf_writeByte (m : Memory) (a : Nat) (b : Byte) (h : m.wf = true)
    (h1 : Config.ramBase ≤ a) (h2 : a < Config.ramBase + Config.ramSize) :
    (m.writeByte a b).wf = true := by
  simp only [Memory.wf, Bool.and_eq_true] at h ⊢
  refine ⟨sparseWf_set _ m a b h.1, ?_⟩
  exact sparse_all_set Memory.initial
    (fun k => decide (Config.ramBase ≤ k) && decide (k < Config.ramBase + Config.ramSize)) m a b
    (by simp [h1, h2]) h.2

/-- A write inside RAM keeps the canonical form. -/
theorem Memory.wf_write (m : Memory) (a n : Nat) (v : Carrier) (h : m.wf = true)
    (h1 : Config.ramBase ≤ a) (h2 : a + n ≤ Config.ramBase + Config.ramSize) :
    (m.write a n v).wf = true := by
  induction n generalizing m a v with
  | zero => exact h
  | succ n ih =>
    exact ih _ _ _ (Memory.wf_writeByte m a _ h h1 (by omega)) (by omega) (by omega)

/-! ### The pixel buffer -/

/-- Reading a pixel word after one was written (43_soc_aux.md R256, R257). -/
theorem PixMem.readWord_writeWord (m : PixMem) (j i : Nat) (v : Word) :
    (m.writeWord j v).readWord i = if i = j then v else m.readWord i :=
  sparseGet_set PixMem.initial m j i v

/-- A write inside the buffer keeps the canonical form. -/
theorem PixMem.wf_writeWord (m : PixMem) (j : Nat) (v : Word) (h : m.wf = true)
    (hj : j < Config.pixWords) : (m.writeWord j v).wf = true := by
  simp only [PixMem.wf, Bool.and_eq_true] at h ⊢
  exact ⟨sparseWf_set _ m j v h.1,
    sparse_all_set PixMem.initial (fun k => decide (k < Config.pixWords)) m j v (by simp [hj]) h.2⟩

end Sys2Proof.Machine
end

