-- ==== Sys2Proof/Laws/PerInstr.lean ====
section
/-!
SUPPORT. The family `DeviceOfEncoding`, one lemma per constructor of `Instr`: the address an instruction
encodes to is routed to the device whose register it is (20_memory.md R71, R72), and an instruction that is
no register access encodes to a request without an address (30_encoding.md R113).
-/
namespace Sys2Proof.Laws.DeviceOfEncoding

/-- The device whose register an instruction accesses. -/
def device (i : Instr) : Option Device :=
  match i with
  | .clk | .poll | .plicBest _ | .plicIrq _ _ | .plicCheckInterrupt | .plicClaim _
  | .plicComplete _ _ | .busDrain _ | .ramClk _ | .plicClk _ | .uartClk _ | .socClk _
  | .channelPush _ | .channelPop _ | .channelNonempty _ | .channelClear _ | .hostRx _ | .hostTx
  | .hostCmd | .hostKeys _ | .hostNow => none
  | .ramR _ _ | .ramW _ _ _ => some .ram
  | .plicPrioR _ | .plicPrioW _ _ | .plicPendR _ | .plicPendW _ _ | .plicEnR _ _ | .plicEnW _ _ _
  | .plicThrR _ | .plicThrW _ _ | .plicClaimR _ | .plicCompleteW _ _ => some .plic
  | .uartRbrR | .uartDllR | .uartThrW _ | .uartDllW _ | .uartIerR | .uartIerW _ | .uartDlhR
  | .uartDlhW _ | .uartIirR | .uartFcrW _ | .uartLcrR | .uartLcrW _ | .uartMcrR | .uartMcrW _
  | .uartLsrR | .uartLsrW _ | .uartMsrR | .uartMsrW _ | .uartScrR | .uartScrW _ => some .uart
  | .socTimeR | .socFbctlLoR | .socFbctlHiW _ | .socKbdR | .socPoweroffW _ | .socPixR _
  | .socPixW _ _ => some .soc

/-- The request of an instruction names an address of its device, or no address at all. -/
def Statement (i : Instr) : Prop :=
  i.wf = true →
  match encode i with
  | .read a _ => (device i).isSome = true ∧ route a = device i
  | .write a _ _ => (device i).isSome = true ∧ route a = device i
  | _ => device i = none

theorem plic_route (r : PlicReg) : route (plicAddress r) = some .plic :=
  route_plic _ (plicOffset_lt r).1

theorem soc_route (r : SocReg) (h : socRegOk r) :
    route (Config.socBase + socOffset Config.socLayout r) = some .soc :=
  route_soc _ (socOffset_lt r h)

theorem ram_route (o : BitVec Config.ramOffBits) : route (Config.ramBase + o.toNat) = some .ram :=
  route_ram _ o.isLt

theorem clk : Statement (.clk) := fun _ => rfl
theorem poll : Statement (.poll) := fun _ => rfl
theorem ramR (w : Width) (o : BitVec Config.ramOffBits) : Statement (.ramR w o) := fun _ => ⟨rfl, ram_route o⟩
theorem ramW (w : Width) (o : BitVec Config.ramOffBits) (v : Carrier) : Statement (.ramW w o v) := fun _ => ⟨rfl, ram_route o⟩
theorem plicPrioR (i : SourceId) : Statement (.plicPrioR i) := fun _ => ⟨rfl, plic_route (.prio i)⟩
theorem plicPrioW (i : SourceId) (v : Word) : Statement (.plicPrioW i v) := fun _ => ⟨rfl, plic_route (.prio i)⟩
theorem plicPendR (w : Fin 32) : Statement (.plicPendR w) := fun _ => ⟨rfl, plic_route (.pend w)⟩
theorem plicPendW (w : Fin 32) (v : Word) : Statement (.plicPendW w v) := fun _ => ⟨rfl, plic_route (.pend w)⟩
theorem plicEnR (c : Context) (w : Fin 32) : Statement (.plicEnR c w) := fun _ => ⟨rfl, plic_route (.en c w)⟩
theorem plicEnW (c : Context) (w : Fin 32) (v : Word) : Statement (.plicEnW c w v) := fun _ => ⟨rfl, plic_route (.en c w)⟩
theorem plicThrR (c : Context) : Statement (.plicThrR c) := fun _ => ⟨rfl, plic_route (.thr c)⟩
theorem plicThrW (c : Context) (v : Word) : Statement (.plicThrW c v) := fun _ => ⟨rfl, plic_route (.thr c)⟩
theorem plicClaimR (c : Context) : Statement (.plicClaimR c) := fun _ => ⟨rfl, plic_route (.claim c)⟩
theorem plicCompleteW (c : Context) (v : Word) : Statement (.plicCompleteW c v) := fun _ => ⟨rfl, plic_route (.claim c)⟩
theorem uartRbrR : Statement (.uartRbrR) := fun _ => ⟨rfl, route_uart _ (by decide)⟩
theorem uartDllR : Statement (.uartDllR) := fun _ => ⟨rfl, route_uart _ (by decide)⟩
theorem uartThrW (v : Byte) : Statement (.uartThrW v) := fun _ => ⟨rfl, route_uart _ (by decide)⟩
theorem uartDllW (v : Byte) : Statement (.uartDllW v) := fun _ => ⟨rfl, route_uart _ (by decide)⟩
theorem uartIerR : Statement (.uartIerR) := fun _ => ⟨rfl, route_uart _ (by decide)⟩
theorem uartIerW (v : Byte) : Statement (.uartIerW v) := fun _ => ⟨rfl, route_uart _ (by decide)⟩
theorem uartDlhR : Statement (.uartDlhR) := fun _ => ⟨rfl, route_uart _ (by decide)⟩
theorem uartDlhW (v : Byte) : Statement (.uartDlhW v) := fun _ => ⟨rfl, route_uart _ (by decide)⟩
theorem uartIirR : Statement (.uartIirR) := fun _ => ⟨rfl, route_uart _ (by decide)⟩
theorem uartFcrW (v : Byte) : Statement (.uartFcrW v) := fun _ => ⟨rfl, route_uart _ (by decide)⟩
theorem uartLcrR : Statement (.uartLcrR) := fun _ => ⟨rfl, route_uart _ (by decide)⟩
theorem uartLcrW (v : Byte) : Statement (.uartLcrW v) := fun _ => ⟨rfl, route_uart _ (by decide)⟩
theorem uartMcrR : Statement (.uartMcrR) := fun _ => ⟨rfl, route_uart _ (by decide)⟩
theorem uartMcrW (v : Byte) : Statement (.uartMcrW v) := fun _ => ⟨rfl, route_uart _ (by decide)⟩
theorem uartLsrR : Statement (.uartLsrR) := fun _ => ⟨rfl, route_uart _ (by decide)⟩
theorem uartLsrW (v : Byte) : Statement (.uartLsrW v) := fun _ => ⟨rfl, route_uart _ (by decide)⟩
theorem uartMsrR : Statement (.uartMsrR) := fun _ => ⟨rfl, route_uart _ (by decide)⟩
theorem uartMsrW (v : Byte) : Statement (.uartMsrW v) := fun _ => ⟨rfl, route_uart _ (by decide)⟩
theorem uartScrR : Statement (.uartScrR) := fun _ => ⟨rfl, route_uart _ (by decide)⟩
theorem uartScrW (v : Byte) : Statement (.uartScrW v) := fun _ => ⟨rfl, route_uart _ (by decide)⟩
theorem socTimeR : Statement (.socTimeR) := fun _ => ⟨rfl, soc_route .time trivial⟩
theorem socFbctlLoR : Statement (.socFbctlLoR) := fun _ => ⟨rfl, soc_route .fbLo trivial⟩
theorem socFbctlHiW (v : Word) : Statement (.socFbctlHiW v) := fun _ => ⟨rfl, soc_route .fbHi trivial⟩
theorem socKbdR : Statement (.socKbdR) := fun _ => ⟨rfl, soc_route .kbd trivial⟩
theorem socPoweroffW (v : Byte) : Statement (.socPoweroffW v) := fun _ => ⟨rfl, soc_route .poweroff trivial⟩
theorem socPixR (j : Nat) : Statement (.socPixR j) := fun h => ⟨rfl, soc_route (.pix j) (by simpa [Instr.wf, socRegOk] using h)⟩
theorem socPixW (j : Nat) (v : Word) : Statement (.socPixW j v) := fun h => ⟨rfl, soc_route (.pix j) (by simpa [Instr.wf, socRegOk] using h)⟩
theorem plicBest (c : Context) : Statement (.plicBest c) := fun _ => rfl
theorem plicIrq (source : SourceId) (level : Bool) : Statement (.plicIrq source level) := fun _ => rfl
theorem plicCheckInterrupt : Statement (.plicCheckInterrupt) := fun _ => rfl
theorem plicClaim (c : Context) : Statement (.plicClaim c) := fun _ => rfl
theorem plicComplete (c : Context) (source : Word) : Statement (.plicComplete c source) := fun _ => rfl
theorem busDrain (collector : List IrqEvent) : Statement (.busDrain collector) := fun _ => rfl
theorem ramClk (collector : List IrqEvent) : Statement (.ramClk collector) := fun _ => rfl
theorem plicClk (collector : List IrqEvent) : Statement (.plicClk collector) := fun _ => rfl
theorem uartClk (collector : List IrqEvent) : Statement (.uartClk collector) := fun _ => rfl
theorem socClk (collector : List IrqEvent) : Statement (.socClk collector) := fun _ => rfl
theorem channelPush (v : ChanVal) : Statement (.channelPush v) := fun _ => rfl
theorem channelPop (q : Queue) : Statement (.channelPop q) := fun _ => rfl
theorem channelNonempty (q : Queue) : Statement (.channelNonempty q) := fun _ => rfl
theorem channelClear (q : Queue) : Statement (.channelClear q) := fun _ => rfl
theorem hostRx (b : Byte) : Statement (.hostRx b) := fun _ => rfl
theorem hostTx : Statement (.hostTx) := fun _ => rfl
theorem hostCmd : Statement (.hostCmd) := fun _ => rfl
theorem hostKeys (ks : List Word) : Statement (.hostKeys ks) := fun _ => rfl
theorem hostNow : Statement (.hostNow) := fun _ => rfl

end Sys2Proof.Laws.DeviceOfEncoding
end

