-- ==== Sys2Proof/Laws/Plic.lean ====
section
/-!
SUPPORT. What each operation of the PLIC can do, said once (41_plic.md R160 to R164, R166, R170).
-/
namespace Sys2Proof.Machine

/-! ### Priorities -/

/-- A priority written is the one read back, and no other changes (R166). -/
theorem Plic.setPrio_prioOf (p : Plic) (i j : Nat) (v : Word) (hi : 1 ≤ i)
    (h : i < Config.nSrc) :
    (p.setPrio i v).prioOf j = if j = i then v else p.prioOf j := by
  obtain ⟨k, rfl⟩ : ∃ k, i = k + 1 := ⟨i - 1, by omega⟩
  cases j with
  | zero => simp [Plic.prioOf]
  | succ j =>
    by_cases hjk : j = k
    · subst hjk
      have : j < Config.nSrc - 1 := by omega
      simp only [Plic.setPrio, Plic.prioOf, if_true]
      rw [Vector.getElem?_setIfInBounds_self_of_lt this, Option.getD_some]
    · have : k ≠ j := fun e => hjk e.symm
      rw [if_neg (by omega)]
      simp only [Plic.setPrio, Plic.prioOf]
      rw [Vector.getElem?_setIfInBounds_ne this]

/-- Writing a priority changes the priorities alone. -/
theorem Plic.setPrio_frame (p : Plic) (i : Nat) (v : Word) :
    p.setPrio i v = { p with prio := (p.setPrio i v).prio } := by
  cases i <;> rfl

@[simp] theorem Plic.setPrio_pend (p : Plic) (i : Nat) (v : Word) : (p.setPrio i v).pend = p.pend := by
  cases i <;> rfl
@[simp] theorem Plic.setPrio_upd (p : Plic) (i : Nat) (v : Word) : (p.setPrio i v).upd = p.upd := by
  cases i <;> rfl
@[simp] theorem Plic.setPrio_m (p : Plic) (i : Nat) (v : Word) : (p.setPrio i v).m = p.m := by
  cases i <;> rfl
@[simp] theorem Plic.setPrio_s (p : Plic) (i : Nat) (v : Word) : (p.setPrio i v).s = p.s := by
  cases i <;> rfl

/-! ### Arbitration -/

/-- The scan ends with what it began with, or with a candidate it met (R160). -/
theorem Plic.scan_cases (p : Plic) (c : Context) (n : Nat) (hn : n < Config.nSrc) (id : Nat)
    (best : Word) :
    p.scan c n id best = id ∨
    (Config.nSrc - n ≤ p.scan c n id best ∧ p.scan c n id best < Config.nSrc ∧
      p.candidate c (p.scan c n id best) = true) := by
  induction n generalizing id best with
  | zero => exact .inl rfl
  | succ n ih =>
    unfold Plic.scan
    split
    · rename_i h
      simp only [Bool.and_eq_true] at h
      rcases ih (by omega) (Config.nSrc - 1 - n) (p.prioOf (Config.nSrc - 1 - n)) with e | ⟨h1, h2, h3⟩
      · right; rw [e]; exact ⟨by omega, by omega, h.1⟩
      · right; exact ⟨by omega, h2, h3⟩
    · rcases ih (by omega) id best with e | ⟨h1, h2, h3⟩
      · exact .inl e
      · right; exact ⟨by omega, h2, h3⟩

/-- `best` is 0 or a candidate among the source-ids `1..NSRC-1` (R160). -/
theorem Plic.best_cases (p : Plic) (c : Context) :
    p.best c = 0 ∨ (1 ≤ p.best c ∧ p.best c < Config.nSrc ∧ p.candidate c (p.best c) = true) := by
  rcases p.scan_cases c (Config.nSrc - 1) (by decide) 0 (p.ctx c).thr with h | ⟨h1, h2, h3⟩
  · exact .inl h
  · exact .inr ⟨h1, h2, h3⟩

/-- `best` is a source-id. -/
theorem Plic.best_lt (p : Plic) (c : Context) : p.best c < Config.nSrc := by
  rcases p.best_cases c with h | h
  · rw [h]; decide
  · exact h.2.1

/-! ### `irq` and the drain -/

/-- What `irq` does (R161): the bit, and the update flag only if the bit changed. -/
theorem Plic.irq_spec (p : Plic) (i : Nat) (level : Bool) :
    p.irq i level = { p with
      pend := (p.irq i level).pend
      upd := p.upd || decide (p.pend.getLsbD i ≠ level) } := by
  unfold Plic.irq
  split
  · rename_i h; cases p; simp_all
  · rename_i h; simp [h]

/-- The pending bits after `irq` (R161). -/
theorem Plic.irq_pend (p : Plic) (i : Nat) (level : Bool) (j : Nat) (hj : j < Config.nSrc) :
    (p.irq i level).pend.getLsbD j = if j = i then level else p.pend.getLsbD j := by
  unfold Plic.irq
  split
  · rename_i h
    by_cases e : j = i
    · subst e; simp [h]
    · simp [e]
  · exact setBit_getLsbD p.pend i level j hj

@[simp] theorem Plic.irq_prio (p : Plic) (i : Nat) (b : Bool) : (p.irq i b).prio = p.prio := by
  unfold Plic.irq; split <;> rfl
@[simp] theorem Plic.irq_m (p : Plic) (i : Nat) (b : Bool) : (p.irq i b).m = p.m := by
  unfold Plic.irq; split <;> rfl
@[simp] theorem Plic.irq_s (p : Plic) (i : Nat) (b : Bool) : (p.irq i b).s = p.s := by
  unfold Plic.irq; split <;> rfl

@[simp] theorem Plic.drain_nil (p : Plic) : p.drain [] = p := rfl
/-- The last event appended is applied first (40_bus_memory.md R133). -/
theorem Plic.drain_append (p : Plic) (col : List IrqEvent) (e : IrqEvent) :
    p.drain (col ++ [e]) = (p.irq e.source.val e.level).drain col := by
  simp [Plic.drain]
theorem Plic.drain_cons (p : Plic) (col : List IrqEvent) (e : IrqEvent) :
    p.drain (e :: col) = (p.drain col).irq e.source.val e.level := rfl
@[simp] theorem Plic.drain_prio (p : Plic) (col : List IrqEvent) : (p.drain col).prio = p.prio := by
  induction col with
  | nil => rfl
  | cons e t ih => rw [Plic.drain_cons, Plic.irq_prio, ih]
@[simp] theorem Plic.drain_m (p : Plic) (col : List IrqEvent) : (p.drain col).m = p.m := by
  induction col with
  | nil => rfl
  | cons e t ih => rw [Plic.drain_cons, Plic.irq_m, ih]
@[simp] theorem Plic.drain_s (p : Plic) (col : List IrqEvent) : (p.drain col).s = p.s := by
  induction col with
  | nil => rfl
  | cons e t ih => rw [Plic.drain_cons, Plic.irq_s, ih]

/-! ### `check_interrupt`, claim, complete -/

/-- What `check_interrupt` does (R162). -/
theorem Plic.checkInterrupt_cases (p : Plic) :
    (p.upd = true ∧ p.checkInterrupt = (some (p.best .machine != 0), p.setUpd false)) ∨
    (p.upd = false ∧ p.checkInterrupt = (none, p)) := by
  unfold Plic.checkInterrupt
  cases h : p.upd <;> simp

/-- What a claim does (R163). -/
theorem Plic.claim_cases (p : Plic) (c : Context) :
    (p.best c = 0 ∧ p.claim c = (0, p)) ∨
    (1 ≤ p.best c ∧ p.best c < Config.nSrc ∧ p.candidate c (p.best c) = true ∧
      p.claim c = (p.best c, ({ p with pend := setBit p.pend (p.best c) false, upd := true }).withCtx c
        { p.ctx c with claimed := setBit (p.ctx c).claimed (p.best c) true })) := by
  rcases p.best_cases c with h | ⟨h1, h2, h3⟩
  · exact .inl ⟨h, by simp [Plic.claim, h]⟩
  · exact .inr ⟨h1, h2, h3, by simp [Plic.claim, show p.best c ≠ 0 by omega]⟩

/-- The source-id a claim returns. -/
@[simp] theorem Plic.claim_fst (p : Plic) (c : Context) : (p.claim c).1 = p.best c := by
  rcases p.claim_cases c with ⟨h, e⟩ | ⟨_, _, _, e⟩ <;> simp [*]

/-- A claim leaves the priorities alone. -/
@[simp] theorem Plic.claim_prio (p : Plic) (c : Context) : (p.claim c).2.prio = p.prio := by
  rcases p.claim_cases c with ⟨_, e⟩ | ⟨_, _, _, e⟩ <;> simp [e]

/-- What a completion does (R164). -/
theorem Plic.complete_cases (p : Plic) (c : Context) (v : Word) :
    (v.toNat < Config.nSrc ∧ p.complete c v =
      p.withCtx c { p.ctx c with claimed := setBit (p.ctx c).claimed v.toNat false }) ∨
    (Config.nSrc ≤ v.toNat ∧ p.complete c v = p) := by
  unfold Plic.complete
  split
  · rename_i h; exact .inl ⟨h, rfl⟩
  · rename_i h; exact .inr ⟨Nat.le_of_not_lt h, rfl⟩

@[simp] theorem Plic.complete_prio (p : Plic) (c : Context) (v : Word) :
    (p.complete c v).prio = p.prio := by
  rcases p.complete_cases c v with ⟨_, e⟩ | ⟨_, e⟩ <;> simp [e]
@[simp] theorem Plic.complete_pend (p : Plic) (c : Context) (v : Word) :
    (p.complete c v).pend = p.pend := by
  rcases p.complete_cases c v with ⟨_, e⟩ | ⟨_, e⟩ <;> simp [e]
@[simp] theorem Plic.complete_upd (p : Plic) (c : Context) (v : Word) :
    (p.complete c v).upd = p.upd := by
  rcases p.complete_cases c v with ⟨_, e⟩ | ⟨_, e⟩ <;> simp [e]

end Sys2Proof.Machine
end

