-- ==== Sys2Proof/Laws/Step.lean ====
section
/-!
SUPPORT. What one step can do, said once.
-/
namespace Sys2Proof.Machine

/-- The three ways a rejected request ends (30_encoding.md R109; log 9, log 10): if it answers a next state,
that is the access fault. -/
theorem State.reject_next (s t : State) (e : Reject) (h : s.reject e = .next t) :
    t = s.respond .accessFault := by
  cases e <;> simp [State.reject] at h <;> exact h.symm

/-- The fetch takes the head of the trace. -/
theorem State.fetch_cases (s : State) :
    (s.trace = [] ∧ s.fetch = none) ∨
    (∃ r rest, s.trace = r :: rest ∧ s.fetch = some (r, { s with trace := rest })) := by
  unfold State.fetch
  cases h : s.trace with
  | nil => exact .inl ⟨rfl, rfl⟩
  | cons r rest => exact .inr ⟨r, rest, rfl, rfl⟩

/-- If a step answers a next state: the trace was empty and nothing changed, or the next request selected an
instruction whose meaning answered that state, or it was an access fault. -/
theorem step_next_cases (s t : State) (h : step s = .next t) :
    (s.trace = [] ∧ t = s) ∨
    (∃ r rest i, s.trace = r :: rest ∧ decode s.uart.dlab r = .ok i ∧
      exec i { s with trace := rest } = .next t) ∨
    (∃ r rest e, s.trace = r :: rest ∧ decode s.uart.dlab r = .rejected e ∧
      t = ({ s with trace := rest } : State).respond .accessFault) := by
  rcases s.fetch_cases with ⟨ht, hf⟩ | ⟨r, rest, ht, hf⟩
  · simp only [step, hf] at h
    exact .inl ⟨ht, by cases h; rfl⟩
  · simp only [step, hf] at h
    cases hd : decode s.uart.dlab r with
    | ok i => rw [hd] at h; exact .inr (.inl ⟨r, rest, i, ht, hd, h⟩)
    | rejected e => rw [hd] at h; exact .inr (.inr ⟨r, rest, e, ht, hd, State.reject_next _ _ _ h⟩)

end Sys2Proof.Machine
end

