-- ==== Sys2Proof/Laws/Run.lean ====
section
/-!
SUPPORT. What a run can do at its first operation, said once, and that every step of the machine is a step of
the block.
-/
namespace Sys2Proof.Machine

/-! ### Runs -/

@[simp] theorem runProgram_nil (s : State) : runProgram [] s = .next s := rfl

/-- Only HOST.CMD ends a run, and only when it took a Poweroff. -/
theorem endsRun_iff (r : Request) (a : Response) :
    endsRun r a = true ↔ r = .hostCmd ∧ a = .received (.cmdq .poweroff) := by
  simp [endsRun]

/-- A run ends at the step that ends it, whatever its program holds after it. -/
theorem runProgram_end (r : Request) (rest : List Request) (s t : State) (h : step (s.issue r) = .next t)
    (e : endsRun r t.resp = true) : runProgram (r :: rest) s = .next t := by
  simp [runProgram, h, e]

/-- A run goes on after every other operation. -/
theorem runProgram_cons (r : Request) (rest : List Request) (s t : State)
    (h : step (s.issue r) = .next t) (e : endsRun r t.resp = false) :
    runProgram (r :: rest) s = runProgram rest t := by
  simp [runProgram, h, e]

/-- A run that answers a next state: its program was empty, or its first operation ended it, or the rest of
the program ran from where that operation left the machine. -/
theorem runProgram_next_cases (p : List Request) (s u : State) (h : runProgram p s = .next u) :
    (p = [] ∧ u = s) ∨
    (∃ r rest, p = r :: rest ∧ step (s.issue r) = .next u ∧ endsRun r u.resp = true) ∨
    (∃ r rest t, p = r :: rest ∧ step (s.issue r) = .next t ∧ endsRun r t.resp = false ∧
      runProgram rest t = .next u) := by
  cases p with
  | nil => exact .inl ⟨rfl, by cases h; rfl⟩
  | cons r rest =>
    cases hs : step (s.issue r) with
    | fault e => simp [runProgram, hs] at h
    | refused e => simp [runProgram, hs] at h
    | next t =>
      cases he : endsRun r t.resp
      · rw [runProgram_cons r rest s t hs he] at h
        exact .inr (.inr ⟨r, rest, t, rfl, hs, he, h⟩)
      · rw [runProgram_end r rest s t hs he] at h
        cases h
        exact .inr (.inl ⟨r, rest, rfl, hs, he⟩)

/-! ### The block's steps -/

/-- Putting back the request that a step takes gives the state it is taken from. -/
theorem State.issue_of_trace (s : State) (r : Request) (rest : List Request) (h : s.trace = r :: rest) :
    ({ s with trace := rest } : State).issue r = s := by
  simp [State.issue, ← h]

/-- Every step of the machine that takes an operation is a step of the block. -/
theorem step_isBlockStep (s t : State) (r : Request) (rest : List Request) (h : s.trace = r :: rest)
    (hk : keyWords s.hostKeys = true) (hs : step s = .next t) :
    BlockStep s.toBlock r t.resp t.toBlock :=
  .operation { s with trace := rest } t rfl hk (by rw [State.issue_of_trace s r rest h]; exact hs)

end Sys2Proof.Machine
end

