-- ==== Sys2Proof/Tests/Slice0.lean ====
section
/-!
SUPPORT. Tests: the well-formedness smoke, the decoding of every constructor from a request written out from
30_encoding.md, single steps whose expected results come from 95_test_vectors.md or from the rule's own
example (cited at each), and for each statement with hypotheses a witness that meets them.
-/
namespace Sys2Proof.Tests

set_option Elab.async false

open Sys2Proof Sys2Proof.Machine

/-! ### Helpers -/

/-- What an operation answers. -/
def answer (i : Instr) (s : State) : Response :=
  match exec i s with
  | .next t => t.resp
  | .fault _ => .none
  | .refused _ => .none

/-- The state an operation leaves; the old one where it stops. -/
def after (i : Instr) (s : State) : State :=
  match exec i s with
  | .next t => t
  | .fault _ => s
  | .refused _ => s

/-- What a step answers to a request. -/
def answerTo (r : Request) (s : State) : Response :=
  match step (s.issue r) with
  | .next t => t.resp
  | .fault _ => .none
  | .refused _ => .none

/-- Reset with another UART. -/
def withU (u : Uart) : State := State.reset.withUart u

/-- Reset with another PLIC. -/
def withP (p : Plic) : State := State.reset.withPlic p

/-- Reset with another SoC device. -/
def withD (d : Soc) : State := State.reset.withSoc d

/-- The PLIC of 95_test_vectors.md S3 after step 4: priority[5] = 3, threshold 1, source 5 enabled for
context 0 and pending. -/
def plicS3 : Plic :=
  { (Plic.reset.setPrio 5 3#32) with
    pend := 0x20#1024
    m := { en := 0x20#1024, thr := 1#32, claimed := 0#1024 }
    upd := true }

/-- The PLIC of 95_test_vectors.md program 3 after step 7. -/
def plicP3 : Plic :=
  { (((Plic.reset.setPrio 3 2#32).setPrio 5 7#32).setPrio 9 7#32) with
    pend := 0x228#1024
    m := { en := 0x228#1024, thr := 1#32, claimed := 0#1024 }
    s := { en := 0x8#1024, thr := 0#32, claimed := 0#1024 }
    upd := true }

/-- The UART with one received byte waiting and data ready. -/
def uartFull : Uart := { Uart.reset with rxq := [0x31#8], lsr := 0x61#8 }

/-- A SoC layout that R8 admits, with a pixel buffer of four words. -/
def layout1 : Config.SocLayout :=
  { offTime := 0, offFbctl := 8, offKbd := 16, offPoweroff := 20, offPix := 24, pixBytes := 16 }

/-- The event a line of source 5 makes when it rises. -/
def rise5 : IrqEvent := { source := 5, level := true }

/-! ### Well-formedness: each check refuses an ill-formed term -/

theorem test_wf_ramR_past_the_end :
    (Instr.ramR .w2 0x3FFFFFFF#30).wf = false := by decide

theorem test_wf_ramR_last_byte :
    (Instr.ramR .w1 0x3FFFFFFF#30).wf = true := by decide

theorem test_wf_ramW_past_the_end :
    (Instr.ramW .w8 0x3FFFFFF9#30 0#64).wf = false := by decide

theorem test_wf_ramW_value_too_wide :
    (Instr.ramW .w1 0#30 0x1FF#64).wf = false := by decide

theorem test_wf_plicPrioR_source_zero :
    (Instr.plicPrioR 0).wf = false := by decide

theorem test_wf_plicPrioW_source_zero :
    (Instr.plicPrioW 0 1#32).wf = false := by decide

theorem test_wf_socPixR_past_the_buffer :
    (Instr.socPixR Config.pixWords).wf = false := by simp [Instr.wf]

theorem test_wf_socPixW_past_the_buffer :
    (Instr.socPixW Config.pixWords 0#32).wf = false := by simp [Instr.wf]

theorem test_wf_busDrain_collision :
    (Instr.busDrain [rise5, { rise5 with level := false }]).wf = false := by decide

theorem test_wf_channelPush_zero_key :
    (Instr.channelPush (.kbd 0#32)).wf = false := by decide

theorem test_wf_hostKeys_zero_key :
    (Instr.hostKeys [1#32, 0#32]).wf = false := by decide

theorem test_wf_dlab_of_the_data_register :
    Instr.dlabOk true .uartRbrR = false ∧ Instr.dlabOk false .uartDllR = false := by decide

/-! ### Decoding: one request per constructor, written out from 30_encoding.md R100 to R107 -/

theorem test_decode_clk :
    decode false .clk = .ok .clk := by decide

theorem test_decode_poll :
    decode false .poll = .ok .poll := by decide

theorem test_decode_ramR :
    decode false (.read 0x80000001 8) = .ok (.ramR .w8 1#30) := by decide

theorem test_decode_ramW :
    decode false (.write 0xBFFFFFFE 2 0x1BEEF#64) = .ok (.ramW .w2 0x3FFFFFFE#30 0xBEEF#64) := by decide

theorem test_decode_plicPrioR :
    decode false (.read 0x0C000FFC 4) = .ok (.plicPrioR 1023) := by decide

theorem test_decode_plicPrioW :
    decode false (.write 0x0C000014 4 3#64) = .ok (.plicPrioW 5 3#32) := by decide

theorem test_decode_plicPendR :
    decode false (.read 0x0C00107C 4) = .ok (.plicPendR 31) := by decide

theorem test_decode_plicPendW :
    decode false (.write 0x0C001000 4 0xFFFFFFFF#64) = .ok (.plicPendW 0 0xFFFFFFFF#32) := by decide

theorem test_decode_plicEnR :
    decode false (.read 0x0C002080 4) = .ok (.plicEnR .supervisor 0) := by decide

theorem test_decode_plicEnW :
    decode false (.write 0x0C002004 4 0x20#64) = .ok (.plicEnW .machine 1 0x20#32) := by decide

theorem test_decode_plicThrR :
    decode false (.read 0x0C201000 4) = .ok (.plicThrR .supervisor) := by decide

theorem test_decode_plicThrW :
    decode false (.write 0x0C200000 4 1#64) = .ok (.plicThrW .machine 1#32) := by decide

theorem test_decode_plicClaimR :
    decode false (.read 0x0C200004 4) = .ok (.plicClaimR .machine) := by decide

theorem test_decode_plicCompleteW :
    decode false (.write 0x0C201004 4 3#64) = .ok (.plicCompleteW .supervisor 3#32) := by decide

theorem test_decode_uartRbrR :
    decode false (.read 0x10000000 1) = .ok .uartRbrR := by decide

theorem test_decode_uartDllR :
    decode true (.read 0x10000000 1) = .ok .uartDllR := by decide

theorem test_decode_uartThrW :
    decode false (.write 0x10000000 1 0x48#64) = .ok (.uartThrW 0x48#8) := by decide

theorem test_decode_uartDllW :
    decode true (.write 0x10000000 1 0x03#64) = .ok (.uartDllW 0x03#8) := by decide

theorem test_decode_uartIerR :
    decode false (.read 0x10000001 1) = .ok .uartIerR := by decide

theorem test_decode_uartIerW :
    decode false (.write 0x10000001 1 0x0F#64) = .ok (.uartIerW 0x0F#8) := by decide

theorem test_decode_uartDlhR :
    decode true (.read 0x10000001 1) = .ok .uartDlhR := by decide

theorem test_decode_uartDlhW :
    decode true (.write 0x10000001 1 0xAB#64) = .ok (.uartDlhW 0xAB#8) := by decide

theorem test_decode_uartIirR :
    decode true (.read 0x10000002 1) = .ok .uartIirR := by decide

theorem test_decode_uartFcrW :
    decode false (.write 0x10000002 1 0x07#64) = .ok (.uartFcrW 0x07#8) := by decide

theorem test_decode_uartLcrR :
    decode true (.read 0x10000003 1) = .ok .uartLcrR := by decide

theorem test_decode_uartLcrW :
    decode false (.write 0x10000003 1 0x80#64) = .ok (.uartLcrW 0x80#8) := by decide

theorem test_decode_uartMcrR :
    decode false (.read 0x10000004 1) = .ok .uartMcrR := by decide

theorem test_decode_uartMcrW :
    decode true (.write 0x10000004 1 0x10#64) = .ok (.uartMcrW 0x10#8) := by decide

theorem test_decode_uartLsrR :
    decode false (.read 0x10000005 1) = .ok .uartLsrR := by decide

theorem test_decode_uartLsrW :
    decode false (.write 0x10000005 1 0x00#64) = .ok (.uartLsrW 0x00#8) := by decide

theorem test_decode_uartMsrR :
    decode true (.read 0x10000006 1) = .ok .uartMsrR := by decide

theorem test_decode_uartMsrW :
    decode false (.write 0x10000006 1 0x00#64) = .ok (.uartMsrW 0x00#8) := by decide

theorem test_decode_uartScrR :
    decode false (.read 0x10000007 1) = .ok .uartScrR := by decide

theorem test_decode_uartScrW :
    decode false (.write 0x10000007 1 0xA5#64) = .ok (.uartScrW 0xA5#8) := by decide

theorem test_decode_socTimeR :
    decode false (.read (0x20000000 + Config.socLayout.offTime) 8) = .ok .socTimeR := by
  have h := decode_socRead false .time trivial
  simp only [decodeSocRead, socSelect_offset .time trivial] at h
  exact h

theorem test_decode_socFbctlLoR :
    decode false (.read (0x20000000 + Config.socLayout.offFbctl) 4) = .ok .socFbctlLoR := by
  have h := decode_socRead false .fbLo trivial
  simp only [decodeSocRead, socSelect_offset .fbLo trivial] at h
  exact h

theorem test_decode_socFbctlHiW :
    decode false (.write (0x20000000 + (Config.socLayout.offFbctl + 4)) 4 1#64) = .ok (.socFbctlHiW 1#32) := by
  have h := decode_socWrite false .fbHi trivial 1#64
  simp only [decodeSocWrite, socSelect_offset .fbHi trivial] at h
  exact h

theorem test_decode_socKbdR :
    decode false (.read (0x20000000 + Config.socLayout.offKbd) 4) = .ok .socKbdR := by
  have h := decode_socRead false .kbd trivial
  simp only [decodeSocRead, socSelect_offset .kbd trivial] at h
  exact h

theorem test_decode_socPoweroffW :
    decode false (.write (0x20000000 + Config.socLayout.offPoweroff) 1 0x55#64) = .ok (.socPoweroffW 0x55#8) := by
  have h := decode_socWrite false .poweroff trivial 0x55#64
  simp only [decodeSocWrite, socSelect_offset .poweroff trivial] at h
  exact h

/-- Where the buffer has a word (`PIX_BYTES` may be 0, R8). -/
theorem test_decode_socPixR :
    0 < Config.pixWords →
      decode false (.read (0x20000000 + (Config.socLayout.offPix + 4 * 0)) 4) = .ok (.socPixR 0) := by
  intro hp
  have h := decode_socRead false (.pix 0) hp
  simp only [decodeSocRead, socSelect_offset (.pix 0) hp] at h
  exact h

/-- The value is truncated to 32 bits (95_test_vectors.md A12). -/
theorem test_decode_socPixW :
    0 < Config.pixWords →
      decode false (.write (0x20000000 + (Config.socLayout.offPix + 4 * 0)) 4 0x123456789#64) =
        .ok (.socPixW 0 0x23456789#32) := by
  intro hp
  have h := decode_socWrite false (.pix 0) hp 0x123456789#64
  simp only [decodeSocWrite, socSelect_offset (.pix 0) hp] at h
  exact h

/-- A layout that R8 admits, with a pixel buffer of four words (A2, A4, A11). -/
theorem test_socSelect_of_one_layout :
    layout1.ok = true ∧ socSelect layout1 0 = some .time ∧ socSelect layout1 4 = none ∧
    socSelect layout1 12 = some .fbHi ∧ socSelect layout1 16 = some .kbd ∧
    socSelect layout1 20 = some .poweroff ∧ socSelect layout1 24 = some (.pix 0) ∧
    socSelect layout1 26 = none ∧ socSelect layout1 36 = some (.pix 3) ∧ socSelect layout1 40 = none := by decide

/-- 00_scope.md R8: `PIX_BYTES` is any multiple of 4, and an empty region overlaps none. -/
theorem test_an_empty_pixel_buffer_is_admitted :
    ({ layout1 with offPix := 12, pixBytes := 0 } : Config.SocLayout).ok = true ∧
    ({ layout1 with pixBytes := 2 } : Config.SocLayout).ok = false ∧
    ({ layout1 with offPix := 12 } : Config.SocLayout).ok = false := by decide

theorem test_decode_plicBest :
    decode false (.plicBest 1) = .ok (.plicBest .supervisor) := by decide

theorem test_decode_plicIrq :
    decode false (.plicIrq 1023 true) = .ok (.plicIrq 1023 true) := by decide

theorem test_decode_plicCheckInterrupt :
    decode false .plicCheckInterrupt = .ok .plicCheckInterrupt := by decide

theorem test_decode_plicClaim :
    decode false (.plicClaim 0) = .ok (.plicClaim .machine) := by decide

theorem test_decode_plicComplete :
    decode false (.plicComplete 1 9#32) = .ok (.plicComplete .supervisor 9#32) := by decide

theorem test_decode_busDrain :
    decode false (.drain [rise5]) = .ok (.busDrain [rise5]) := by decide

theorem test_decode_ramClk :
    decode false (.deviceClk .ram []) = .ok (.ramClk []) := by decide

theorem test_decode_plicClk :
    decode false (.deviceClk .plic []) = .ok (.plicClk []) := by decide

theorem test_decode_uartClk :
    decode false (.deviceClk .uart []) = .ok (.uartClk []) := by decide

theorem test_decode_socClk :
    decode false (.deviceClk .soc []) = .ok (.socClk []) := by decide

theorem test_decode_channelPush :
    decode false (.push (.rxq 7#8)) = .ok (.channelPush (.rxq 7#8)) := by decide

theorem test_decode_channelPop :
    decode false (.pop .kbd) = .ok (.channelPop .kbd) := by decide

theorem test_decode_channelNonempty :
    decode false (.nonempty .txq) = .ok (.channelNonempty .txq) := by decide

theorem test_decode_channelClear :
    decode false (.clear .cmdq) = .ok (.channelClear .cmdq) := by decide

theorem test_decode_hostRx :
    decode false (.hostRx 0x41#8) = .ok (.hostRx 0x41#8) := by decide

theorem test_decode_hostTx :
    decode false .hostTx = .ok .hostTx := by decide

theorem test_decode_hostCmd :
    decode false .hostCmd = .ok .hostCmd := by decide

theorem test_decode_hostKeys :
    decode false (.hostKeys [0x8000001E#32]) = .ok (.hostKeys [0x8000001E#32]) := by decide

theorem test_decode_hostNow :
    decode false .hostNow = .ok .hostNow := by decide

/-- What selects nothing, by name (30_encoding.md R109; 20_memory.md R72, D42; 95_test_vectors.md B9, B12, B13, L2). -/
theorem test_decode_rejects :
    decode false (.read 0x10000008 1) = .rejected .noRange ∧
    decode false (.read 0x80000000 3) = .rejected .badWidth ∧
    decode false (.read 0x0C000000 4) = .rejected .gap ∧
    decode false (.read 0xBFFFFFFF 2) = .rejected .badWidth ∧
    decode false (.read 0x1C200004 4) = .rejected .noRange ∧
    decode false (.read 0x180000000 1) = .rejected .noRange ∧
    decode false (.plicClaim 2) = .rejected .noSuchContext ∧
    decode false (.plicIrq 1024 true) = .rejected .noSuchSource ∧
    decode false (.drain [rise5, rise5]) = .rejected .irqCollision ∧
    decode false (.hostKeys [0#32]) = .rejected .zeroKeyWord ∧
    decode false (.push (.kbd 0#32)) = .rejected .zeroKeyWord := by decide

/-- A table word is an address read (log 7). -/
theorem test_decodeTableWord :
    decodeTableWord 32 0x0C200004 = some (.plicClaimR .machine) := by decide

/-- `R1 0x1000_0005 -> 0x60` straight after reset (40_bus_memory.md R130), as the first operation. -/
theorem test_table_word_runs_first :
    step (State.reset.withFetchWord 32 0x10000005) =
      .next { State.reset with resp := .value 0x60#64 } := by rfl

/-! ### Single steps -/

/-- 95_test_vectors.md B16. -/
theorem test_clk_counts :
    after .clk (State.reset.withBus { div := 998 }) = (State.reset.withBus { div := 999 }).respond .nothing := by rfl

/-- B17. -/
theorem test_clk_drives_the_thousandth :
    (after .clk (State.reset.withBus { div := 999 })).bus.div = 0 := by rfl

/-- B18. -/
theorem test_poll_after_reset :
    answer .poll State.reset = .level none := by rfl

/-- S4. -/
theorem test_poll_reports_true :
    answer .poll (withP plicS3) = .level (some true) := by decide +kernel

/-- B3: `ram[0..3] = 44 33 22 11`. -/
theorem test_ramW_then_ramR :
    (((State.reset.ram.write 0x80000000 4 0x11223344#64).readByte 0x80000000 = 0x44#8) ∧
    (State.reset.ram.write 0x80000000 4 0x11223344#64).readByte 0x80000003 = 0x11#8) := by
  simp [Memory.write, Memory.readByte_writeByte, lowByte]

/-- B3: `R2 0x8000_0001 -> 0x2233`. -/
theorem test_ramR_misaligned :
    (State.reset.ram.write 0x80000000 4 0x11223344#64).read 0x80000001 2 = 0x2233#64 := by
  simp [Memory.write, Memory.read, Memory.readByte_writeByte, lowByte, joinByte]

/-- B7. -/
theorem test_ramR_initial :
    answer (.ramR .w1 0x100#30) State.reset =
      .value (joinByte (Config.ramInit 0x100) 0#64) := by rfl

/-- B10: no byte written. -/
theorem test_ramW_past_the_end_faults :
    after (.ramW .w8 0x3FFFFFF9#30 0#64) State.reset = State.reset.respond .accessFault := by rfl

/-- B9. -/
theorem test_read_past_the_end_faults :
    answerTo (.read 0xBFFFFFFF 2) State.reset = .accessFault := by rfl

/-- L1. -/
theorem test_plicPrioR_reset :
    answer (.plicPrioR 5) State.reset = .value 0#64 := by decide +kernel

/-- 41_plic.md R166: all 32 bits. -/
theorem test_plicPrioW_then_read :
    answer (.plicPrioR 5) (after (.plicPrioW 5 0xFFFFFFFF#32) State.reset) = .value 0xFFFFFFFF#64 := by decide +kernel

/-- 41_plic.md R167: `pend[40]` is bit 8 of word 1. -/
theorem test_plicPendR_bit_order :
    answer (.plicPendR 1) (withP { Plic.reset with pend := setBit 0#1024 40 true }) =
      .value 0x100#64 := by decide +kernel

/-- L5. -/
theorem test_plicPendW_faults :
    answer (.plicPendW 0 0xFFFFFFFF#32) State.reset = .accessFault := by rfl

/-- 41_plic.md R170. -/
theorem test_plicEnW_then_read :
    answer (.plicEnR .supervisor 31) (after (.plicEnW .supervisor 31 0x80000001#32) State.reset) =
      .value 0x80000001#64 := by decide +kernel

/-- 41_plic.md R170. -/
theorem test_plicEnW_leaves_the_other_context :
    answer (.plicEnR .machine 31) (after (.plicEnW .supervisor 31 0x80000001#32) State.reset) =
      .value 0#64 := by decide +kernel

/-- 41_plic.md R172. -/
theorem test_plicThrW_then_read :
    answer (.plicThrR .machine) (after (.plicThrW .machine 1#32) State.reset) = .value 1#64 := by rfl

/-- 41_plic.md R160, the example: priorities 2, 7, 7 at 3, 5, 9. -/
theorem test_plicBest_least_of_equal :
    answer (.plicBest .machine) (withP plicP3) = .source 5 := by decide +kernel

/-- 95_test_vectors.md program 3, step 26. -/
theorem test_plicBest_threshold_masks :
    answer (.plicBest .machine) (withP (plicP3.setThreshold .machine 7#32)) = .source 0 := by decide +kernel

/-- S3 step 5. -/
theorem test_plicClaimR_returns_five :
    answer (.plicClaimR .machine) (withP plicS3) = .value 5#64 := by decide +kernel

/-- S3 step 6. -/
theorem test_plicClaimR_again_returns_zero :
    answer (.plicClaimR .machine) (after (.plicClaimR .machine) (withP plicS3)) = .value 0#64 := by decide +kernel

/-- Program 3, step 12. -/
theorem test_plicClaim_of_the_other_context :
    answer (.plicClaim .supervisor) (withP plicP3) = .source 3 := by decide +kernel

/-- S3 step 5. -/
theorem test_plicClaim_moves_the_bit :
    (after (.plicClaim .machine) (withP plicS3)).plic.pend = 0#1024 ∧
    (after (.plicClaim .machine) (withP plicS3)).plic.m.claimed = 0x20#1024 := by decide +kernel

/-- S3 step 7. -/
theorem test_plicCompleteW_releases :
    (after (.plicCompleteW .machine 5#32) (after (.plicClaim .machine) (withP plicS3))).plic.m.claimed = 0#1024 := by decide +kernel

/-- 41_plic.md R164: 1029 is 1024 + 5. -/
theorem test_plicComplete_ignores_large_ids :
    (after (.plicComplete .machine 1029#32) (after (.plicClaim .machine) (withP plicS3))).plic.m.claimed =
      0x20#1024 := by decide +kernel

/-- 41_plic.md R161. -/
theorem test_plicIrq_sets_pending_and_upd :
    (after (.plicIrq 5 true) State.reset).plic.pend = 0x20#1024 ∧
    (after (.plicIrq 5 true) State.reset).plic.upd = true := by decide +kernel

/-- 41_plic.md R161. -/
theorem test_plicIrq_restated_changes_nothing :
    (after (.plicIrq 5 true) (withP { plicS3 with upd := false })).plic.upd = false := by decide +kernel

/-- 41_plic.md R162. -/
theorem test_plicCheckInterrupt_clears_upd :
    answer .plicCheckInterrupt (withP plicS3) = .level (some true) ∧
    (after .plicCheckInterrupt (withP plicS3)).plic.upd = false := by decide +kernel

/-- 40_bus_memory.md R133. -/
theorem test_busDrain_applies_both :
    (after (.busDrain [rise5, { source := 9, level := true }]) State.reset).plic.pend = 0x220#1024 := by decide +kernel

/-- 40_bus_memory.md R138. -/
theorem test_ramClk_does_nothing :
    after (.ramClk [rise5]) State.reset = State.reset.respond (.collected [rise5]) := by rfl

/-- 41_plic.md R178. -/
theorem test_plicClk_does_nothing :
    after (.plicClk [rise5]) State.reset = State.reset.respond (.collected [rise5]) := by rfl

/-- 42_uart.md R201. -/
theorem test_uartRbrR_pops :
    answer .uartRbrR (withU uartFull) = .value 0x31#64 ∧
    answer .uartRbrR (withU Uart.reset) = .value 0#64 := by
  constructor
  · simp only [answer, exec, execUartRbrR, Uart.readData]
    rfl
  · rfl

/-- U26. -/
theorem test_uartDllR_pops_nothing :
    after .uartDllR (withU { uartFull with lcr := 0x80#8, dll := 3#8 }) =
      (withU { uartFull with lcr := 0x80#8, dll := 3#8 }).respond (.value 3#64) := by rfl

/-- 42_uart.md R203. -/
theorem test_uartThrW_sends :
    (after (.uartThrW 0x48#8) State.reset).uart.txq = [0x48#8] := by rfl

/-- U21. -/
theorem test_uartThrW_drops_with_overrun :
    (after (.uartThrW 0x41#8) (withU uartFull)).uart.lsr = 0x63#8 ∧
    (after (.uartThrW 0x41#8) (withU uartFull)).uart.txq = [] := by decide

/-- 42_uart.md R204. -/
theorem test_uartDllW_transmits_nothing :
    (after (.uartDllW 3#8) State.reset).uart.dll = 3#8 ∧ (after (.uartDllW 3#8) State.reset).uart.txq = [] := by decide

/-- U3. -/
theorem test_uartIerW_masks :
    answer .uartIerR (after (.uartIerW 0xFF#8) State.reset) = .value 0x0F#64 := by decide

/-- 42_uart.md R208. -/
theorem test_uartDlhW_then_read :
    answer .uartDlhR (after (.uartDlhW 0xAB#8) State.reset) = .value 0xAB#64 := by decide

/-- U10. -/
theorem test_uartFcrW_is_not_read_back :
    answer .uartIirR (after (.uartFcrW 0xC7#8) State.reset) = .value 0x01#64 := by decide

/-- U6. -/
theorem test_uartLcrW_then_read :
    answer .uartLcrR (after (.uartLcrW 0x7F#8) State.reset) = .value 0x7F#64 := by decide

/-- U4. -/
theorem test_uartMcrW_masks :
    answer .uartMcrR (after (.uartMcrW 0xFF#8) State.reset) = .value 0x1F#64 := by decide

/-- U1. -/
theorem test_uartLsrR_reset :
    answer .uartLsrR State.reset = .value 0x60#64 := by decide

/-- U9. -/
theorem test_uartLsrW_faults :
    after (.uartLsrW 0#8) State.reset = State.reset.respond .accessFault := by rfl

/-- 42_uart.md R217. -/
theorem test_uartMsrR_is_zero :
    answer .uartMsrR State.reset = .value 0#64 := by decide

/-- U9. -/
theorem test_uartMsrW_faults :
    after (.uartMsrW 0#8) State.reset = State.reset.respond .accessFault := by rfl

/-- U5. -/
theorem test_uartScrW_then_read :
    answer .uartScrR (after (.uartScrW 0xA5#8) State.reset) = .value 0xA5#64 := by decide

/-- 42_uart.md R221, the example. -/
theorem test_uartClk_receives :
    (after (.uartClk []) (withU { Uart.reset with ier := 1#8, rxq := [0x41#8] })).uart.lsr = 0x61#8 ∧
    (after (.uartClk []) (withU { Uart.reset with ier := 1#8, rxq := [0x41#8] })).uart.iir = 0x04#8 := by decide

/-- U6, U20. -/
theorem test_uartClk_serves_clear_receive :
    (after (.uartClk []) (withU { uartFull with lcr := 0x7F#8 })).uart.lcr = 0x79#8 ∧
    (after (.uartClk []) (withU { uartFull with lcr := 0x7F#8 })).uart.rxq = [] ∧
    (after (.uartClk []) (withU { uartFull with lcr := 0x7F#8 })).uart.lsr = 0x60#8 := by decide

/-- U12: nothing is popped. -/
theorem test_wide_access_to_the_uart_faults :
    answerTo (.read 0x10000000 4) (withU uartFull) = .accessFault := by rfl

/-- A1: any 64-bit value. -/
theorem test_socTimeR_draws :
    answer .socTimeR State.reset = .value (Config.wallClock 0) := by simp [answer, exec, execSocTimeR, State.readAnswer, State.clockDrawn, State.respond,
    State.wallClock, zext, State.reset]

/-- A3. -/
theorem test_socFbctlLoR_geometry :
    answer .socFbctlLoR State.reset = .value (Config.fbGeometry.setWidth 64) := by rfl

/-- 43_soc_aux.md R253. -/
theorem test_socFbctlHiW_presents :
    (after (.socFbctlHiW 1#32) State.reset).soc.presents = 1 := by rfl

/-- 43_soc_aux.md R254, A6. -/
theorem test_socKbdR_pops :
    answer .socKbdR (withD { Soc.reset with kbd := [0x8000001E#32] }) = .value 0x8000001E#64 ∧
    answer .socKbdR State.reset = .value 0#64 := by decide

/-- 43_soc_aux.md R255. -/
theorem test_socPoweroffW_latches :
    (after (.socPoweroffW 0#8) State.reset).soc.poff = true := by rfl

/-- 43_soc_aux.md R256. -/
theorem test_socPixR_reset :
    0 < Config.pixWords → answer (.socPixR 0) State.reset = .value 0#64 := by
  intro h
  simp [answer, exec, execSocPixR, h]
  rfl

/-- 43_soc_aux.md R257. -/
theorem test_socPixW_then_read :
    0 < Config.pixWords →
      answer (.socPixR 0) (after (.socPixW 0 0x00FF0000#32) State.reset) = .value 0x00FF0000#64 := by
  intro h
  simp [answer, after, exec, execSocPixR, execSocPixW, h]
  rfl

/-- 43_soc_aux.md R258. -/
theorem test_socClk_sends_poweroff :
    (after (.socClk []) (withD { Soc.reset with poff := true })).soc.cmdq = [.poweroff] ∧
    (after (.socClk []) (withD { Soc.reset with poff := true })).soc.poff = false := by decide

/-- A7. -/
theorem test_socClk_takes_the_keys :
    (after (.socClk []) (after (.hostKeys [1#32, 2#32]) State.reset)).soc.kbd = [1#32, 2#32] := by rfl

/-- 44_channel_host.md R281. -/
theorem test_channelPush_appends :
    (after (.channelPush (.rxq 2#8)) (withU uartFull)).uart.rxq = [0x31#8, 2#8] := by rfl

/-- 44_channel_host.md R282. -/
theorem test_channelPop_takes_the_head :
    answer (.channelPop .rxq) (withU uartFull) = .received (.rxq 0x31#8) := by rfl

/-- 44_channel_host.md R284. -/
theorem test_channelPop_waits :
    answer (.channelPop .rxq) State.reset = .waits := by rfl

/-- 44_channel_host.md R283. -/
theorem test_channelNonempty_tests :
    answer (.channelNonempty .rxq) (withU uartFull) = .available true ∧
    answer (.channelNonempty .txq) (withU uartFull) = .available false := by decide

/-- 44_channel_host.md R283. -/
theorem test_channelClear_empties :
    (after (.channelClear .rxq) (withU uartFull)).uart.rxq = [] := by rfl

/-- U11. -/
theorem test_hostRx_leaves_data_ready :
    (after (.hostRx 0x7A#8) State.reset).uart.rxq = [0x7A#8] ∧
    (after (.hostRx 0x7A#8) State.reset).uart.lsr = 0x60#8 := by decide

/-- H2. -/
theorem test_hostTx_in_order :
    answer .hostTx (withU { Uart.reset with txq := [1#8, 2#8] }) = .received (.txq 1#8) := by rfl

/-- H1. -/
theorem test_hostTx_waits :
    answer .hostTx State.reset = .waits := by rfl

/-- A9. -/
theorem test_hostCmd_takes_poweroff :
    answer .hostCmd (withD { Soc.reset with cmdq := [.poweroff] }) = .received (.cmdq .poweroff) := by rfl

/-- 60_exceptions.md R320, 70_reset_and_hazards.md R351: what stands after the step is not run. -/
theorem test_run_ends_at_the_host_command :
    runProgram [.hostCmd, .hostRx 1#8] (withD { Soc.reset with cmdq := [.poweroff] }) =
      .next (State.reset.respond (.received (.cmdq .poweroff))) := by rfl

/-- A9: the second HOST.CMD is not enabled; the block goes on. -/
theorem test_hostCmd_twice :
    answer .hostCmd (after .hostCmd (withD { Soc.reset with cmdq := [.poweroff] })) = .waits := by rfl

/-- A7. -/
theorem test_hostKeys_waits_for_the_tick :
    (after (.hostKeys [1#32]) State.reset).soc.kbd = [] := by rfl

/-- 30_encoding.md R103. -/
theorem test_hostNow_draws :
    answer .hostNow State.reset = .now (Config.wallClock 0) := by rfl

/-! ### Witnesses: for each statement with hypotheses, a state and operands that meet them -/

theorem test_witness_DecodeOfEncodeIsTheInstruction :
    ((Instr.ramR .w8 0x3FFFFFF8#30).wf = true ∧ Instr.dlabOk true (.ramR .w8 0x3FFFFFF8#30) = true) ∧
    (Instr.uartDllR.wf = true ∧ Instr.dlabOk true .uartDllR = true) := by decide

theorem test_witness_DecodedInstructionsAreWellFormed :
    decode true (.read 0x10000001 1) = .ok .uartDlhR := by decide

theorem test_witness_AddressesAreNeitherTruncatedNorAliased :
    decode false (.read 0xBFFFFFF8 8) = .ok (.ramR .w8 0x3FFFFFF8#30) ∧
    decode false (.write 0x10000007 1 0x1FF#64) = .ok (.uartScrW 0xFF#8) := by decide

theorem test_witness_StepRunsTheDecodedInstruction :
    (State.reset.issue .poll).trace = .poll :: [] ∧
    decode (State.reset.issue .poll).uart.dlab .poll = .ok .poll ∧
    decode State.reset.uart.dlab (.read 0x10000008 1) = .rejected .noRange ∧
    decode State.reset.uart.dlab (.read 0x10000000 2) = .rejected .badWidth ∧
    decode State.reset.uart.dlab (.read 0x0C003000 4) = .rejected .gap ∧ State.reset.trace = [] := by decide

/-- One access for each alternative of the two hypotheses, at a boundary of its range. -/
theorem test_witness_AccessesThatSelectNoRegisterFault :
    ((3 ≠ 1 ∧ 3 ≠ 2 ∧ 3 ≠ 4 ∧ 3 ≠ 8) ∧ 0x0BFFFFFF < 0x0C000000 ∧
      (0x10000008 ≤ 0x1FFFFFFF ∧ 0x1FFFFFFF < 0x20000000) ∧
      (0x30000000 ≤ 0x7FFFFFFF ∧ 0x7FFFFFFF < 0x80000000) ∧ 0xC0000000 ≤ 0xC0000000 ∧
      (0x80000000 ≤ 0xBFFFFFFF ∧ 0xC0000000 < 0xBFFFFFFF + 2)) ∧
    (0x0C000000 ≤ 0x0FFFFFFC ∧ 0x0FFFFFFC < 0x10000000 ∧ 2 ≠ 4 ∧ 0x0C000006 % 4 ≠ 0 ∧
      (0x0C001080 ≤ 0x0C001FFC ∧ 0x0C001FFC < 0x0C002000) ∧
      (0x0C002100 ≤ 0x0C1FFFFC ∧ 0x0C1FFFFC < 0x0C200000) ∧
      (0x0C200008 ≤ 0x0C200FFC ∧ 0x0C200FFC < 0x0C201000) ∧ 0x0C201008 ≤ 0x0FFFFFFC) ∧
    (0x10000000 ≤ 0x10000007 ∧ 0x10000007 < 0x10000008 ∧ 2 ≠ 1) ∧
    (0x0C001000 ≤ 0x0C00107F ∧ 0x0C00107F < 0x0C001080) := by decide

theorem test_witness_SocAccessesOutsideTheTableFault :
    0x0FFFFFFF < 0x10000000 ∧
    (¬ (0x0FFFFFFF = Config.socLayout.offTime ∧ 2 = 8) ∧ ¬ (0x0FFFFFFF = Config.socLayout.offFbctl ∧ 2 = 4) ∧
      ¬ (0x0FFFFFFF = Config.socLayout.offKbd ∧ 2 = 4) ∧
      ¬ (Config.socLayout.offPix ≤ 0x0FFFFFFF ∧
        0x0FFFFFFF < Config.socLayout.offPix + Config.socLayout.pixBytes ∧
        (0x0FFFFFFF - Config.socLayout.offPix) % 4 = 0 ∧ 2 = 4)) ∧
    (¬ (0x0FFFFFFF = Config.socLayout.offFbctl + 4 ∧ 2 = 4) ∧
      ¬ (0x0FFFFFFF = Config.socLayout.offPoweroff ∧ 2 = 1)) := by
  refine ⟨by decide, ⟨?_, ?_, ?_, ?_⟩, ?_, ?_⟩ <;> rintro h <;> simp at h

theorem test_witness_AnAccessFaultChangesNoState :
    (State.reset.issue (.write 0x10000005 1 0#64)).trace = .write 0x10000005 1 0#64 :: [] ∧
    step (State.reset.issue (.write 0x10000005 1 0#64)) = .next (State.reset.respond .accessFault) ∧
    (State.reset.respond .accessFault).resp = .accessFault := ⟨rfl, rfl, rfl⟩

theorem test_witness_TheFaultDependsOnTheAccessAlone :
    step { State.reset with trace := .read 0x10000005 1 :: [] } =
      .next (State.reset.respond (.value 0x60#64)) ∧
    step { withU uartFull with trace := .read 0x10000005 1 :: [] } =
      .next ((withU uartFull).respond (.value 0x61#64)) ∧
    step { State.reset with trace := .write 0x10000005 1 0#64 :: [] } =
      .next (State.reset.respond .accessFault) ∧
    step { State.reset with trace := .write 0x10000005 1 1#64 :: [] } =
      .next (State.reset.respond .accessFault) := ⟨rfl, rfl, rfl, rfl⟩

theorem test_witness_NoAgentRequestStopsTheMachine :
    Request.fromCaller (.write 0 16 0#64) = true ∧ Request.fromHost (.hostKeys [1#32]) = true ∧
    (State.reset.issue .hostTx).trace = .hostTx :: [] := by decide

theorem test_witness_ReadValuesFitTheirWidth :
    step { State.reset with trace := .read 0x10000005 1 :: [] } =
      .next (State.reset.respond (.value 0x60#64)) ∧
    (State.reset.respond (.value 0x60#64)).resp = .value 0x60#64 := ⟨rfl, rfl⟩

theorem test_witness_EveryThousandthClkIsADrivenTick :
    (State.reset.withBus { div := 998 }).bus.div + 1 ≠ 1000 ∧
    (State.reset.withBus { div := 999 }).bus.div + 1 = 1000 := by decide

theorem test_witness_ADrivenTickDrivesTheUartLineIntoThePlic :
    (State.reset.withBus { div := 999 }).bus.div + 1 = 1000 := by decide

theorem test_witness_CheckInterruptReportsContextZeroOnce :
    (withP plicS3).plic.upd = true ∧ State.reset.plic.upd = false := by decide

theorem test_witness_PollReportsWhetherContextZeroHasAnEligibleSource :
    (withP plicP3).plic.upd = true ∧ State.reset.plic.upd = false := by decide

theorem test_witness_TheDrainSetsEachCollectedSource :
    noCollision [rise5, { source := 1023, level := true }, { source := 0, level := false }] = true := by decide

theorem test_witness_RamReadsAreLittleEndian :
    (0x3FFFFFF8#30).toNat + Width.w8.bytes ≤ 0x40000000 := by decide

theorem test_witness_RamWritesStoreTheirBytesAlone :
    (0x3FFFFFFF#30).toNat + Width.w1.bytes ≤ 0x40000000 := by decide

theorem test_witness_RamReadAfterWriteReturnsTheValue :
    (0x3FFFFFFC#30).toNat + Width.w4.bytes ≤ 0x40000000 ∧
    (0xFFFFFFFF#64).toNat < 2 ^ (8 * Width.w4.bytes) ∧ State.reset.ram.wf = true := by decide

theorem test_witness_CanonicalMemoriesThatReadAlikeAreEqual :
    Memory.wf [(0x80000000, ~~~ (Config.ramInit 0))] = true ∧
    ∀ a, Memory.readByte [(0x80000000, ~~~ (Config.ramInit 0))] a =
      Memory.readByte [(0x80000000, ~~~ (Config.ramInit 0))] a := by
  refine ⟨?_, fun _ => rfl⟩
  have h : ~~~ (Config.ramInit 0) ≠ Config.ramInit 0 := by
    intro e
    have := congrArg (fun b => b.getLsbD 0) e
    simp at this
  simp [Memory.wf, Memory.inRam, sparseWf, sparseAbove, Memory.initial, h]

theorem test_witness_PriorityAndThresholdReads :
    (1023 : SourceId) ≠ 0 := by decide

theorem test_witness_APriorityWriteChangesThatPriorityAlone :
    (1 : SourceId) ≠ 0 := by decide

theorem test_witness_AClaimTakesTheBestSource :
    exec (.plicBest .machine) State.reset = .next { State.reset with resp := .source 0 } ∧
    (withP plicS3).plic.best .machine ≠ 0 := by
  constructor
  · have h : State.reset.plic.best .machine = 0 := by decide +kernel
    simp [exec, execPlicBest, h, State.respond]
  · decide +kernel

theorem test_witness_IrqSetsThePendingBitAndMarksOnlyAChange :
    (withP plicS3).plic.pend.getLsbD (5 : SourceId).val = true ∧
    State.reset.plic.pend.getLsbD (1023 : SourceId).val ≠ true := by decide +kernel

theorem test_witness_TheUpdateFlagRisesExactlyWithAPendingChange :
    (Instr.plicIrq 5 true).wf = true ∧ State.reset.plic.upd = false ∧
    (after (.plicIrq 5 true) State.reset).plic.upd = true ∧
    (after (.plicIrq 5 true) State.reset).plic.pend ≠ State.reset.plic.pend := by decide +kernel

theorem test_witness_SourceZeroStaysQuiet :
    (State.reset.issue (.plicIrq 5 true)).trace = .plicIrq 5 true :: [] ∧
    Request.emitsSourceZero (.plicIrq 5 true) = false ∧ State.reset.plic.sourceZeroQuiet = true := by decide +kernel

theorem test_witness_TheDataRegisterReadPopsAndClearsOverrun :
    ({ uartFull with lsr := 0x70#8 } : Uart).bi = true ∧ Uart.reset.rxq = [] ∧ uartFull.bi = false ∧
    uartFull.rxq = 0x31#8 :: [] := by decide

theorem test_witness_TheDataRegisterWriteDropsLoopsOrSends :
    (uartFull.fen = false ∧ uartFull.dr = true) ∧
    (({ uartFull with fcr := 1#8, mcr := 0x10#8 } : Uart).fen = true ∧
      ({ uartFull with fcr := 1#8, mcr := 0x10#8 } : Uart).loop = true) ∧
    (Uart.reset.dr = false ∧ Uart.reset.loop = false) := by decide

theorem test_witness_LoopbackReturnsTheByteAndSendsNothing :
    (withU { Uart.reset with mcr := 0x10#8 }).uart.loop = true ∧
    (withU { Uart.reset with mcr := 0x10#8 }).uart.dr = false ∧
    (withU { Uart.reset with mcr := 0x10#8 }).uart.rxq = [] ∧
    (withU { Uart.reset with mcr := 0x10#8 }).uart.bi = false := by decide

theorem test_witness_TheUartClockServesRequestsAndIdentifies :
    true = (!uartFull.clrRx && (uartFull.dr || !uartFull.rxq.isEmpty)) ∧
    true = (uartFull.temt || uartFull.clrTx) ∧ false = (uartFull.erx && true) ∧
    false = (uartFull.etx && true) := by decide

theorem test_witness_TheKeyboardReadPopsTheHead :
    State.reset.soc.kbd = [] ∧
    (withD { Soc.reset with kbd := [1#32, 2#32] }).soc.kbd = 1#32 :: [2#32] := by decide

theorem test_witness_ARunEndsWhereTheHostTakesThePoweroff :
    (withD { Soc.reset with cmdq := [.poweroff] }).soc.cmdq = .poweroff :: [] ∧ State.reset.soc.cmdq = [] ∧
    Request.poll ≠ .hostCmd ∧
    step (State.reset.issue .poll) = .next (State.reset.respond (.level none)) ∧
    (State.reset.withBus { div := 999 }).bus.div + 1 = 1000 ∧
    (State.reset.withBus { div := 999 }).soc.cmdq = [] := ⟨rfl, rfl, by decide, rfl, rfl, rfl⟩

theorem test_witness_OnlyTheDrawsAreLeftOpen :
    BlockStep Block.reset (.hostKeys [1#32]) .nothing Block.reset ∧
    BlockStep Block.reset .hostNow (.now 7#64) Block.reset ∧
    decode Block.reset.uart.dlab .hostNow = .ok .hostNow ∧
    decode false (.read (0x20000000 + Config.socLayout.offTime) 8) = .ok .socTimeR ∧
    ({ Block.reset with bus := { div := 999 } } : Block).bus.div + 1 = 1000 ∧
    keyWords [0x8000001E#32] = true ∧
    (State.reset.issue .poll).trace = .poll :: [] ∧ keyWords (State.reset.issue .poll).hostKeys = true ∧
    step (State.reset.issue .poll) = .next (State.reset.respond (.level none)) := ⟨.operation State.reset ((State.reset.supplyKeys [1#32]).respond .nothing) rfl rfl rfl,
    .clock 7#64 rfl, rfl, test_decode_socTimeR, rfl, rfl, rfl, rfl, rfl⟩

theorem test_witness_ChannelsDeliverInOrder :
    State.reset.queue .rxq = [] ∧
    ∀ v ∈ [ChanVal.rxq 1#8, ChanVal.rxq 2#8, ChanVal.rxq 3#8], queueOf v = .rxq := by decide

theorem test_witness_NonemptyTestsAndClearEmpties :
    Queue.txq ≠ Queue.rxq := by decide

theorem test_witness_AHostByteReachesTheReceiveQueueAtOnce :
    State.reset.uart.rxq = [] ∧ State.reset.uart.bi = false ∧
    (State.reset.withBus { div := 999 }).bus.div + 1 = 1000 ∧
    (State.reset.withBus { div := 999 }).uart.clrRx = false := by decide

theorem test_witness_TheHostTakesPoweroffCommandsInOrder :
    (withD { Soc.reset with cmdq := [.poweroff] }).soc.cmdq = .poweroff :: [] := by decide

theorem test_witness_TheHostTakesTransmittedBytesInOrder :
    (withU { Uart.reset with txq := [1#8, 2#8] }).uart.txq = 1#8 :: [2#8] ∧ State.reset.uart.txq = [] ∧
    State.reset.soc.cmdq = [] ∧ State.reset.uart.rxq = [] ∧ State.reset.soc.kbd = [] ∧
    (withU uartFull).uart.rxq = 0x31#8 :: [] ∧
    (withD { Soc.reset with kbd := [1#32] }).soc.kbd = 1#32 :: [] := by decide

theorem test_witness_SuppliedKeysArriveAtTheNextTick :
    State.reset.bus.div + 1 ≠ 1000 ∧ (State.reset.withBus { div := 999 }).bus.div + 1 = 1000 := by decide

theorem test_witness_QuietReadsAreIdempotent :
    Instr.quietRead .uartLsrR = true ∧ Instr.quietRead (.ramR .w8 0x3FFFFFFF#30) = true := by decide

theorem test_witness_TheHostTouchesOnlyItsQueues :
    (State.reset.issue (.hostRx 1#8)).trace = .hostRx 1#8 :: [] ∧ Request.fromHost (.hostRx 1#8) = true ∧
    step (State.reset.issue (.hostRx 1#8)) =
      .next ((withU { Uart.reset with rxq := [1#8] }).respond .nothing) := ⟨rfl, rfl, rfl⟩

/-- Reset meets the invariant, and a step from it answers. -/
theorem test_witness_EveryStepKeepsTheInvariant :
    (State.reset.issue (.hostRx 1#8)).Inv ∧
    step (State.reset.issue (.hostRx 1#8)) =
      .next ((withU { Uart.reset with rxq := [1#8] }).respond .nothing) := by
  refine ⟨⟨?_, ?_, ?_, ?_, ?_, ?_, ?_, ?_, ?_⟩, rfl⟩ <;> decide

end Sys2Proof.Tests
end

section
/-!
PROOFS. The caller's READ and WRITE (00_scope.md R12): such a request decodes to a row of its own direction
or to one of the three causes of the access fault, and a row of a direction answers in that direction's kind.
-/
namespace Sys2Proof

/-- The request is a READ (30_encoding.md R100). -/
def Request.isRead (r : Request) : Bool :=
  match r with
  | .read _ _ => true
  | _ => false

/-- The request is a WRITE (30_encoding.md R100). -/
def Request.isWrite (r : Request) : Bool :=
  match r with
  | .write _ _ _ => true
  | _ => false

end Sys2Proof

namespace Sys2Proof.Machine

/-! ### What an access decodes to -/

/-- An access came to a row whose own request has the direction `dir`, or to a cause of the access fault. -/
inductive AccessDecoded (dir : Request → Bool) : Decoded → Prop where
  | row (i : Instr) (direction : dir (encode i) = true) : AccessDecoded dir (.ok i)
  | fault (e : Reject) (answer : ∀ s : State, s.reject e = .next s.raiseAccessFault) :
      AccessDecoded dir (.rejected e)

section
variable {dir : Request → Bool}

theorem AccessDecoded.noRange : AccessDecoded dir (.rejected .noRange) := .fault _ fun _ => rfl
theorem AccessDecoded.badWidth : AccessDecoded dir (.rejected .badWidth) := .fault _ fun _ => rfl
theorem AccessDecoded.gap : AccessDecoded dir (.rejected .gap) := .fault _ fun _ => rfl

/-- DLAB chooses between two rows of one direction at UART offsets 0 and 1 (30_encoding.md R104). -/
theorem AccessDecoded.rowByDlab (dlab : Bool) {i j : Instr} (hi : dir (encode i) = true)
    (hj : dir (encode j) = true) : AccessDecoded dir (.ok (if dlab then i else j)) := by
  cases dlab
  · exact .row j hj
  · exact .row i hi

end

theorem decodeRamRead_access (o : Nat) (w : Width) : AccessDecoded Request.isRead (decodeRamRead o w) := by
  unfold decodeRamRead
  split
  · exact .row _ rfl
  · exact .badWidth

theorem decodeRamWrite_access (o : Nat) (w : Width) (v : Carrier) :
    AccessDecoded Request.isWrite (decodeRamWrite o w v) := by
  unfold decodeRamWrite
  split
  · exact .row _ rfl
  · exact .badWidth

theorem decodePlicRead_access (o : Nat) (w : Width) : AccessDecoded Request.isRead (decodePlicRead o w) := by
  unfold decodePlicRead
  split
  · exact .badWidth
  · cases plicSelect o with
    | none => exact .gap
    | some r => cases r <;> exact .row _ rfl

theorem decodePlicWrite_access (o : Nat) (w : Width) (v : Word) :
    AccessDecoded Request.isWrite (decodePlicWrite o w v) := by
  unfold decodePlicWrite
  split
  · exact .badWidth
  · cases plicSelect o with
    | none => exact .gap
    | some r => cases r <;> exact .row _ rfl

theorem decodeUartRead_access (dlab : Bool) (o : Nat) (w : Width) :
    AccessDecoded Request.isRead (decodeUartRead dlab o w) := by
  unfold decodeUartRead
  split
  · exact .badWidth
  · split
    · exact .rowByDlab dlab rfl rfl
    · exact .rowByDlab dlab rfl rfl
    iterate 6 · exact .row _ rfl
    · exact .gap

theorem decodeUartWrite_access (dlab : Bool) (o : Nat) (w : Width) (v : Byte) :
    AccessDecoded Request.isWrite (decodeUartWrite dlab o w v) := by
  unfold decodeUartWrite
  split
  · exact .badWidth
  · split
    · exact .rowByDlab dlab rfl rfl
    · exact .rowByDlab dlab rfl rfl
    iterate 6 · exact .row _ rfl
    · exact .gap

theorem decodeSocRead_access (o : Nat) (w : Width) : AccessDecoded Request.isRead (decodeSocRead o w) := by
  unfold decodeSocRead
  cases socSelect Config.socLayout o with
  | none => exact .gap
  | some r =>
    dsimp only
    split
    · exact .badWidth
    · cases r with
      | time | fbLo | kbd | pix _ => exact .row _ rfl
      | fbHi | poweroff => exact .gap

theorem decodeSocWrite_access (o : Nat) (w : Width) (v : Carrier) :
    AccessDecoded Request.isWrite (decodeSocWrite o w v) := by
  unfold decodeSocWrite
  cases socSelect Config.socLayout o with
  | none => exact .gap
  | some r =>
    dsimp only
    split
    · exact .badWidth
    · cases r with
      | fbHi | poweroff | pix _ => exact .row _ rfl
      | time | fbLo | kbd => exact .gap

/-- A READ decodes to a READ row or faults (40_bus_memory.md R130). -/
theorem decodeRead_access (dlab : Bool) (a n : Nat) :
    AccessDecoded Request.isRead (decodeRead dlab a n) := by
  rcases decodeRead_cases dlab a n with ⟨-, e⟩ | ⟨w, -, ⟨o, -, -, e⟩ | ⟨o, -, -, e⟩ | ⟨o, -, -, e⟩ |
    ⟨o, -, -, e⟩ | ⟨-, e⟩⟩ <;> rw [e]
  · exact .badWidth
  · exact decodeRamRead_access o w
  · exact decodePlicRead_access o w
  · exact decodeUartRead_access dlab o w
  · exact decodeSocRead_access o w
  · exact .noRange

/-- A WRITE decodes to a WRITE row or faults (40_bus_memory.md R131). -/
theorem decodeWrite_access (dlab : Bool) (a n : Nat) (v : Carrier) :
    AccessDecoded Request.isWrite (decodeWrite dlab a n v) := by
  rcases decodeWrite_cases dlab a n v with ⟨-, e⟩ | ⟨w, -, ⟨o, -, -, e⟩ | ⟨o, -, -, e⟩ | ⟨o, -, -, e⟩ |
    ⟨o, -, -, e⟩ | ⟨-, e⟩⟩ <;> rw [e]
  · exact .badWidth
  · exact decodeRamWrite_access o w v
  · exact decodePlicWrite_access o w _
  · exact decodeUartWrite_access dlab o w _
  · exact decodeSocWrite_access o w v
  · exact .noRange

/-! ### What a row answers -/

/-- The outcomes of a READ: a value or the one fault (00_scope.md R12). -/
def Response.OfRead (r : Response) : Prop := r = .accessFault ∨ ∃ v, r = .value v

/-- The outcomes of a WRITE: done or the one fault (00_scope.md R12). -/
def Response.OfWrite (r : Response) : Prop := r = .accessFault ∨ r = .done

/-- The outcome is a next state whose answer is of the kind `kind`. -/
def AnswersIn (kind : Response → Prop) (o : Host.Outcome State Fault Refusal) : Prop :=
  ∃ t, o = .next t ∧ kind t.resp

theorem answersIn_read_value {n : Nat} (s : State) (v : BitVec n) :
    AnswersIn Response.OfRead (.next (s.readAnswer v)) := ⟨_, rfl, .inr ⟨_, rfl⟩⟩

theorem answersIn_write_done (s : State) : AnswersIn Response.OfWrite (.next (s.respond .done)) :=
  ⟨_, rfl, .inr rfl⟩

theorem answersIn_read_fault (s : State) : AnswersIn Response.OfRead (.next s.raiseAccessFault) :=
  ⟨_, rfl, .inl rfl⟩

theorem answersIn_write_fault (s : State) : AnswersIn Response.OfWrite (.next s.raiseAccessFault) :=
  ⟨_, rfl, .inl rfl⟩

/-- A row that tests its operand answers in the kind of both branches. -/
theorem AnswersIn.ite {kind : Response → Prop} {c : Prop} [Decidable c] {s t : State}
    (hs : AnswersIn kind (.next s)) (ht : AnswersIn kind (.next t)) :
    AnswersIn kind (.next (if c then s else t)) := by
  split
  · exact hs
  · exact ht

/-- Every READ row answers a value or the access fault. The rows that test their operand are RAM's (the end of
RAM), the priority's (source-id 0) and the pixel word's (the end of the buffer). -/
theorem exec_read_answers (i : Instr) (h : (encode i).isRead = true) (s : State) :
    AnswersIn Response.OfRead (exec i s) := by
  cases i with
  | ramR _ _ => exact .ite (answersIn_read_fault s) (answersIn_read_value s _)
  | plicPrioR _ => exact .ite (answersIn_read_fault s) (answersIn_read_value s _)
  | socPixR _ => exact .ite (answersIn_read_value s _) (answersIn_read_fault s)
  | plicPendR _ | plicEnR _ _ | plicThrR _ | plicClaimR _ => exact answersIn_read_value _ _
  | uartRbrR | uartDllR | uartIerR | uartDlhR | uartIirR | uartLcrR | uartMcrR | uartLsrR | uartMsrR
  | uartScrR => exact answersIn_read_value _ _
  | socTimeR | socFbctlLoR | socKbdR => exact answersIn_read_value _ _
  | _ => cases h

/-- Every WRITE row answers done or the access fault. Three rows are the fault whatever is written: the pending
bitmap (R168), line status (R216) and modem status (R218). -/
theorem exec_write_answers (i : Instr) (h : (encode i).isWrite = true) (s : State) :
    AnswersIn Response.OfWrite (exec i s) := by
  cases i with
  | ramW _ _ _ => exact .ite (answersIn_write_fault s) (answersIn_write_done _)
  | plicPrioW _ _ => exact .ite (answersIn_write_fault s) (answersIn_write_done _)
  | socPixW _ _ => exact .ite (answersIn_write_done _) (answersIn_write_fault s)
  | plicPendW _ _ | uartLsrW _ | uartMsrW _ => exact answersIn_write_fault s
  | plicEnW _ _ _ | plicThrW _ _ | plicCompleteW _ _ => exact answersIn_write_done _
  | uartThrW _ | uartDllW _ | uartIerW _ | uartDlhW _ | uartFcrW _ | uartLcrW _ | uartMcrW _
  | uartScrW _ => exact answersIn_write_done _
  | socFbctlHiW _ | socPoweroffW _ => exact answersIn_write_done _
  | _ => cases h

/-! ### What the step answers -/

/-- A step runs the operation its request decodes to. -/
theorem step_of_decode_ok (s : State) (r : Request) (rest : List Request) (i : Instr)
    (h : decode s.uart.dlab r = .ok i) :
    step { s with trace := r :: rest } = exec i { s with trace := rest } := by
  simp only [step, State.fetch, h]

/-- A step of a request that selects nothing is its rejection. -/
theorem step_of_decode_rejected (s : State) (r : Request) (rest : List Request) (e : Reject)
    (h : decode s.uart.dlab r = .rejected e) :
    step { s with trace := r :: rest } = State.reject { s with trace := rest } e := by
  simp only [step, State.fetch, h]

/-- An access answers in a kind that holds the access fault, if every row of its direction does. -/
theorem step_access_answers {dir : Request → Bool} {kind : Response → Prop} (s : State) (r : Request)
    (rest : List Request) (hd : AccessDecoded dir (decode s.uart.dlab r)) (hfault : kind .accessFault)
    (hrow : ∀ i t, dir (encode i) = true → AnswersIn kind (exec i t)) :
    AnswersIn kind (step { s with trace := r :: rest }) := by
  generalize hr : decode s.uart.dlab r = d at hd
  cases hd with
  | row i hi => rw [step_of_decode_ok s r rest i hr]; exact hrow i _ hi
  | fault e he => rw [step_of_decode_rejected s r rest e hr]; exact ⟨_, he _, hfault⟩

theorem step_read_answers (s : State) (rest : List Request) (a n : Nat) :
    AnswersIn Response.OfRead (step { s with trace := .read a n :: rest }) :=
  step_access_answers s (.read a n) rest (decodeRead_access _ a n) (.inl rfl)
    fun i t h => exec_read_answers i h t

theorem step_write_answers (s : State) (rest : List Request) (a n : Nat) (v : Carrier) :
    AnswersIn Response.OfWrite (step { s with trace := .write a n v :: rest }) :=
  step_access_answers s (.write a n v) rest (decodeWrite_access _ a n v) (.inl rfl)
    fun i t h => exec_write_answers i h t

/-- `check_interrupt` returns None, Some(false) or Some(true), as its type says. -/
theorem level_values (b : Option Bool) : b = none ∨ b = some false ∨ b = some true := by
  rcases b with - | - | - <;> simp

/-- Settles O11: a READ and a WRITE by what they decode to and what each row of their direction answers; CLK
and POLL select their one row in every state. -/
theorem everyCallerOperationAnswersInItsOwnKind : Obligations.EveryCallerOperationAnswersInItsOwnKind := by
  intro s rest
  refine ⟨step_read_answers s rest, step_write_answers s rest, ⟨_, rfl, rfl⟩, ⟨_, rfl, ?_⟩⟩
  simpa using level_values s.plic.checkInterrupt.1

end Sys2Proof.Machine
end

section
/-!
PROOFS. The PLIC's interrupt input and output and its registers read (41_plic.md R161, R162, R165, R171, R173):
which row a READ at a register's address selects, what the rows and internal operations do to the state.
-/
namespace Sys2Proof

/-- The row that reads a PLIC register (30_encoding.md R105). -/
def PlicReg.readRow (r : PlicReg) : Instr :=
  match r with
  | .prio i => .plicPrioR i
  | .pend w => .plicPendR w
  | .en c w => .plicEnR c w
  | .thr c => .plicThrR c
  | .claim c => .plicClaimR c

/-- A READ at a PLIC register's address selects that register's row at either DLAB; source-id 0 has no priority
register (41_plic.md R176). -/
theorem decode_plicRead_readRow (dlab : Bool) (r : PlicReg) (h : ∀ i, r = .prio i → i ≠ 0) :
    decode dlab (plicRead r) = .ok r.readRow := by
  rw [decode_plicRead, decodePlicRead, if_neg (not_not.mpr rfl), plicSelect_offset r h]
  cases r <;> rfl

/-- The priority of source `i` lies `4i` above the PLIC's base (30_encoding.md R105). -/
theorem plicRead_prio (i : SourceId) : plicRead (.prio i) = .read (0x0C000000 + 4 * i.val) 4 := by
  simp only [plicRead, plicAddress, plicOffset, Config.plicPrioOff, Nat.zero_add]

theorem decode_plicPrioR (dlab : Bool) (i : SourceId) (h : i ≠ 0) :
    decode dlab (.read (0x0C000000 + 4 * i.val) 4) = .ok (.plicPrioR i) := by
  rw [← plicRead_prio]
  exact decode_plicRead_readRow dlab (.prio i) fun j e => by cases e; exact h

theorem decode_plicThrR (dlab : Bool) (c : Context) :
    decode dlab (plicRead (.thr c)) = .ok (.plicThrR c) :=
  decode_plicRead_readRow dlab (.thr c) nofun

theorem decode_plicClaimR (dlab : Bool) (c : Context) :
    decode dlab (plicRead (.claim c)) = .ok (.plicClaimR c) :=
  decode_plicRead_readRow dlab (.claim c) nofun

end Sys2Proof

namespace Sys2Proof.Machine

/-! ### What `irq` does in each of its two cases -/

/-- A level restated changes nothing (41_plic.md R161). -/
theorem Plic.irq_of_eq (p : Plic) (i : Nat) (level : Bool) (h : p.pend.getLsbD i = level) :
    p.irq i level = p := if_pos h

/-- A level changed marks the update (41_plic.md R161). -/
theorem Plic.irq_of_ne (p : Plic) (i : Nat) (level : Bool) (h : p.pend.getLsbD i ≠ level) :
    p.irq i level = { p with pend := (p.irq i level).pend, upd := true } := by
  have hspec := p.irq_spec i level
  rwa [decide_eq_true h, Bool.or_true] at hspec

/-! ### What the rows and the internal operations do to the state -/

theorem exec_plicIrq (i : SourceId) (level : Bool) (s : State) :
    exec (.plicIrq i level) s = .next ((s.withPlic (s.plic.irq i.val level)).respond .nothing) := rfl

theorem exec_plicCheckInterrupt (s : State) : exec .plicCheckInterrupt s =
    .next ((s.withPlic s.plic.checkInterrupt.2).respond (.level s.plic.checkInterrupt.1)) := rfl

theorem exec_plicClaim (c : Context) (s : State) : exec (.plicClaim c) s =
    .next ((s.withPlic (s.plic.claim c).2).respond (.source (s.plic.best c))) := by
  rw [← Plic.claim_fst]
  rfl

/-- The answer of a priority's READ (41_plic.md R165). -/
theorem exec_plicPrioR (i : SourceId) (h : i ≠ 0) (s : State) :
    exec (.plicPrioR i) s = .next (s.respond (.value (zext (s.plic.prioOf i.val)))) :=
  congrArg Host.Outcome.next (if_neg h)

theorem exec_plicThrR (c : Context) (s : State) :
    exec (.plicThrR c) s = .next (s.respond (.value (zext (s.plic.ctx c).thr))) := rfl

/-- A source-id zero-extended from its 32 bits is the source-id (41_plic.md R173). -/
theorem zext_sourceId (id : Nat) (h : id < Config.nSrc) :
    zext (BitVec.ofNat 32 id) = BitVec.ofNat 64 id :=
  BitVec.setWidth_ofNat_of_le_of_lt (by decide) (h.trans (by decide))

/-- The claim register's READ is the claim, answered as a value (41_plic.md R173). -/
theorem exec_plicClaimR (c : Context) (s : State) : exec (.plicClaimR c) s =
    .next ((s.withPlic (s.plic.claim c).2).respond (.value (BitVec.ofNat 64 (s.plic.best c)))) := by
  rw [← zext_sourceId _ (s.plic.best_lt c), ← Plic.claim_fst]
  rfl

/-! ### The statements -/

/-- Settles O33: the two cases of `irq`, the bits of the changed bitmap by `Plic.irq_pend`. -/
theorem irqSetsThePendingBitAndMarksOnlyAChange :
    Obligations.IrqSetsThePendingBitAndMarksOnlyAChange := by
  intro s i level
  rw [exec_plicIrq]
  refine ⟨fun same => ?restated, fun changed => ⟨(s.plic.irq i.val level).pend, ?changed, ?bits⟩⟩
  case restated => rw [s.plic.irq_of_eq _ _ same]; rfl
  case changed => rw [s.plic.irq_of_ne _ _ changed]; rfl
  case bits => exact fun j hj => s.plic.irq_pend i.val level j hj

/-- Settles O16: the two cases of `check_interrupt`, the level being the best source of context 0 at the
call. -/
theorem checkInterruptReportsContextZeroOnce : Obligations.CheckInterruptReportsContextZeroOnce := by
  intro s
  refine ⟨s.plic.best .machine, rfl, ?_⟩
  rw [exec_plicCheckInterrupt]
  rcases s.plic.checkInterrupt_cases with ⟨raised, e⟩ | ⟨low, e⟩ <;> rw [e]
  · exact ⟨fun _ => rfl, fun low => absurd (raised.symm.trans low) (by decide)⟩
  · exact ⟨fun raised => absurd (raised.symm.trans low) (by decide), fun _ => rfl⟩

/-- Settles O24: the registers by their place in the map, the answers by the rows. -/
theorem priorityAndThresholdReads : Obligations.PriorityAndThresholdReads := fun s dlab =>
  ⟨fun i h => ⟨decode_plicPrioR dlab i h, exec_plicPrioR i h s⟩, decode_plicThrR dlab .machine,
    decode_plicThrR dlab .supervisor, fun c => exec_plicThrR c s⟩

/-- Settles O31: the claim register's READ and the claim leave the same state, and answer the best source in
their own kinds. -/
theorem theClaimRegisterClaims : Obligations.TheClaimRegisterClaims :=
  ⟨fun dlab => ⟨decode_plicClaimR dlab .machine, decode_plicClaimR dlab .supervisor⟩,
    fun s c => ⟨s.plic.best c, _, s.plic.best_lt c, exec_plicClaim c s, rfl, exec_plicClaimR c s⟩⟩

end Sys2Proof.Machine
end

section
/-!
PROOFS. The UART's registers read at offsets 0 and 1 (42_uart.md R202, R205, R207): DLAB chooses which register a
READ there selects, and the answer of each.
-/
namespace Sys2Proof

/-! ### What DLAB selects -/

/-- Offset 0 is the divisor latch's low byte when DLAB is set, the receive buffer when it is clear
(30_encoding.md R104). -/
theorem decode_uartRead_zero (dlab : Bool) :
    decode dlab (.read 0x10000000 1) = .ok (if dlab then .uartDllR else .uartRbrR) :=
  decode_uartRead dlab 0 (by decide)

/-- Offset 1 is the divisor latch's high byte when DLAB is set, the interrupt enables when it is clear
(30_encoding.md R104). -/
theorem decode_uartRead_one (dlab : Bool) :
    decode dlab (.read 0x10000001 1) = .ok (if dlab then .uartDlhR else .uartIerR) :=
  decode_uartRead dlab 1 (by decide)

end Sys2Proof

namespace Sys2Proof.Machine

/-! ### What the registers answer -/

/-- UART.DLL.R answers `dll`; the receive queue is in the frame (42_uart.md R202). -/
theorem exec_uartDllR (s : State) : exec .uartDllR s = .next (s.readAnswer s.uart.dll) := rfl

/-- UART.IER.R answers `ier` (42_uart.md R205). -/
theorem exec_uartIerR (s : State) : exec .uartIerR s = .next (s.readAnswer s.uart.ier) := rfl

/-- UART.DLH.R answers `dlh` (42_uart.md R207). -/
theorem exec_uartDlhR (s : State) : exec .uartDlhR s = .next (s.readAnswer s.uart.dlh) := rfl

/-- Settles O36: each READ by what its offset selects at its DLAB and by what the selected row answers. -/
theorem divisorAndEnableReadsAnswerTheirRegister : Obligations.DivisorAndEnableReadsAnswerTheirRegister :=
  fun s => ⟨decode_uartRead_zero true, exec_uartDllR s, decode_uartRead_one false, exec_uartIerR s,
    decode_uartRead_one true, exec_uartDlhR s⟩

end Sys2Proof.Machine
end

section
/-!
PROOFS. The queues tested, emptied and served to the host (44_channel_host.md R283, R287): what `nonempty` answers,
what `clear` leaves alone, and the command HOST.CMD takes.
-/
namespace Sys2Proof.Machine

/-! ### What the operations do to the state -/

theorem exec_channelNonempty (q : Queue) (s : State) :
    exec (.channelNonempty q) s = .next (s.respond (.available (s.nonempty q))) := rfl

theorem exec_channelClear (q : Queue) (s : State) :
    exec (.channelClear q) s = .next ((s.clear q).respond .nothing) := rfl

theorem exec_hostCmd (s : State) : exec .hostCmd s = .next (s.pop .cmdq) := rfl

/-! ### `nonempty` and `clear` (R283) -/

theorem State.nonempty_iff (s : State) (q : Queue) : s.nonempty q = true ↔ s.queue q ≠ [] := by
  simp [State.nonempty]

theorem State.queue_clear_of_ne (s : State) (q q' : Queue) (h : q' ≠ q) :
    (s.clear q).queue q' = s.queue q' := by
  cases q <;> cases q'
  case rxq.rxq | txq.txq | kbd.kbd | cmdq.cmdq => exact absurd rfl h
  all_goals rfl

/-- Of the UART only its two queues can change. -/
theorem State.clear_uart (s : State) (q : Queue) :
    (s.clear q).uart =
      { s.uart with rxq := (s.clear q).uart.rxq, txq := (s.clear q).uart.txq } := by
  cases q <;> rfl

/-- Of the SoC-auxiliary device only its two queues can change. -/
theorem State.clear_soc (s : State) (q : Queue) :
    (s.clear q).soc =
      { s.soc with kbd := (s.clear q).soc.kbd, cmdq := (s.clear q).soc.cmdq } := by
  cases q <;> rfl

@[simp] theorem State.clear_ram (s : State) (q : Queue) : (s.clear q).ram = s.ram := by cases q <;> rfl
@[simp] theorem State.clear_plic (s : State) (q : Queue) : (s.clear q).plic = s.plic := by cases q <;> rfl
@[simp] theorem State.clear_bus (s : State) (q : Queue) : (s.clear q).bus = s.bus := by cases q <;> rfl
@[simp] theorem State.clear_toInputs (s : State) (q : Queue) : (s.clear q).toInputs = s.toInputs := by
  cases q <;> rfl

/-- Settles O52: the test by `State.nonempty_iff`, the emptied queue and the frame by the lemmas on `clear`. -/
theorem nonemptyTestsAndClearEmpties : Obligations.NonemptyTestsAndClearEmpties := by
  intro s q
  have sameInputs : (s.clear q).toInputs = s.toInputs := s.clear_toInputs q
  exact ⟨⟨s.nonempty q, exec_channelNonempty q s, s.nonempty_iff q⟩,
    _, exec_channelClear q s, rfl, s.queue_clear q, s.queue_clear_of_ne q, s.clear_uart q, s.clear_soc q,
    s.clear_ram q, s.clear_plic q, s.clear_bus q, congrArg Inputs.trace sameInputs,
    congrArg Inputs.hostKeys sameInputs, congrArg Inputs.clockDraws sameInputs⟩

/-! ### The head of the command queue (R287) -/

theorem State.queue_cmdq_cons (s : State) (c : Command) (rest : List Command) (h : s.soc.cmdq = c :: rest) :
    s.queue .cmdq = .cmdq c :: rest.map .cmdq := by
  simp [State.queue, h]

theorem State.dropHead_cmdq_cons (s : State) (c : Command) (rest : List Command)
    (h : s.soc.cmdq = c :: rest) :
    s.dropHead .cmdq = s.withSoc { s.soc with cmdq := rest } := by
  simp [State.dropHead, h]

/-- Settles O54: HOST.CMD pops the command queue, and a pop on a queue that holds a value takes its head. -/
theorem theHostTakesPoweroffCommandsInOrder : Obligations.TheHostTakesPoweroffCommandsInOrder := by
  intro s c rest h
  rw [exec_hostCmd, s.pop_cons .cmdq _ _ (s.queue_cmdq_cons c rest h), s.dropHead_cmdq_cons c rest h]
  rfl

end Sys2Proof.Machine
end


section
/-!
PROOFS. The register map (30_encoding.md R104 to R107) as a relation between an access and the row it selects.
The decoder is that relation (`decode_read_iff`, `decode_write_iff`), so that a fact about every access is a case
per device, not a walk through the decoder.
-/
namespace Sys2Proof

/-! ### The rows of the registers -/

/-- The row that writes a PLIC register (R105). -/
def PlicReg.writeRow (r : PlicReg) (v : Word) : Instr :=
  match r with
  | .prio i => .plicPrioW i v
  | .pend w => .plicPendW w v
  | .en c w => .plicEnW c w v
  | .thr c => .plicThrW c v
  | .claim c => .plicCompleteW c v

/-- The row that reads the UART register at an offset (R104). -/
def uartReadRow (dlab : Bool) (o : Fin 8) : Instr :=
  match o with
  | 0 => if dlab then .uartDllR else .uartRbrR
  | 1 => if dlab then .uartDlhR else .uartIerR
  | 2 => .uartIirR
  | 3 => .uartLcrR
  | 4 => .uartMcrR
  | 5 => .uartLsrR
  | 6 => .uartMsrR
  | 7 => .uartScrR

/-- The row that writes the UART register at an offset (R104). -/
def uartWriteRow (dlab : Bool) (o : Fin 8) (v : Byte) : Instr :=
  match o with
  | 0 => if dlab then .uartDllW v else .uartThrW v
  | 1 => if dlab then .uartDlhW v else .uartIerW v
  | 2 => .uartFcrW v
  | 3 => .uartLcrW v
  | 4 => .uartMcrW v
  | 5 => .uartLsrW v
  | 6 => .uartMsrW v
  | 7 => .uartScrW v

/-- The row that reads a SoC register, if it can be read (43_soc_aux.md R250). -/
def SocReg.readRow (r : SocReg) : Option Instr :=
  match r with
  | .time => some .socTimeR
  | .fbLo => some .socFbctlLoR
  | .kbd => some .socKbdR
  | .pix j => some (.socPixR j)
  | .fbHi | .poweroff => none

/-- The row that writes a SoC register, if it can be written (43_soc_aux.md R250). -/
def SocReg.writeRow (r : SocReg) (v : Carrier) : Option Instr :=
  match r with
  | .fbHi => some (.socFbctlHiW (v.setWidth 32))
  | .poweroff => some (.socPoweroffW (v.setWidth 8))
  | .pix j => some (.socPixW j (v.setWidth 32))
  | .time | .fbLo | .kbd => none

/-- A READ of this address and size selects this row. -/
inductive ReadRow (dlab : Bool) : Nat → Nat → Instr → Prop where
  | ram (w : Width) (o : BitVec Config.ramOffBits) (fits : o.toNat + w.bytes ≤ Config.ramSize) :
      ReadRow dlab (Config.ramBase + o.toNat) w.bytes (.ramR w o)
  | plic (r : PlicReg) (listed : ∀ i, r = .prio i → i ≠ 0) : ReadRow dlab (plicAddress r) 4 r.readRow
  | uart (o : Fin 8) : ReadRow dlab (Config.uartBase + o.val) 1 (uartReadRow dlab o)
  | soc (r : SocReg) (i : Instr) (listed : socRegOk r) (row : r.readRow = some i) :
      ReadRow dlab (Config.socBase + socOffset Config.socLayout r) (socWidth r).bytes i

/-- A WRITE of this address, size and value selects this row. -/
inductive WriteRow (dlab : Bool) : Nat → Nat → Carrier → Instr → Prop where
  | ram (w : Width) (o : BitVec Config.ramOffBits) (v : Carrier) (fits : o.toNat + w.bytes ≤ Config.ramSize) :
      WriteRow dlab (Config.ramBase + o.toNat) w.bytes v (.ramW w o (truncTo w v))
  | plic (r : PlicReg) (v : Carrier) (listed : ∀ i, r = .prio i → i ≠ 0) :
      WriteRow dlab (plicAddress r) 4 v (r.writeRow (v.setWidth 32))
  | uart (o : Fin 8) (v : Carrier) :
      WriteRow dlab (Config.uartBase + o.val) 1 v (uartWriteRow dlab o (v.setWidth 8))
  | soc (r : SocReg) (v : Carrier) (i : Instr) (listed : socRegOk r) (row : r.writeRow v = some i) :
      WriteRow dlab (Config.socBase + socOffset Config.socLayout r) (socWidth r).bytes v i

/-! ### Each device's decoder -/

theorem ramOffset_toNat (o : Nat) (h : o < Config.ramSize) : (BitVec.ofNat Config.ramOffBits o).toNat = o :=
  BitVec.toNat_ofNat .. ▸ Nat.mod_eq_of_lt h

theorem readRow_of_decodeRamRead (dlab : Bool) (o : Nat) (w : Width) (i : Instr) (ho : o < Config.ramSize)
    (h : decodeRamRead o w = .ok i) : ReadRow dlab (Config.ramBase + o) w.bytes i := by
  unfold decodeRamRead at h
  split at h
  · rename_i fits
    cases h
    have row := ReadRow.ram (dlab := dlab) w (BitVec.ofNat Config.ramOffBits o)
    rw [ramOffset_toNat o ho] at row
    exact row fits
  · cases h

theorem writeRow_of_decodeRamWrite (dlab : Bool) (o : Nat) (w : Width) (v : Carrier) (i : Instr)
    (ho : o < Config.ramSize) (h : decodeRamWrite o w v = .ok i) :
    WriteRow dlab (Config.ramBase + o) w.bytes v i := by
  unfold decodeRamWrite at h
  split at h
  · rename_i fits
    cases h
    have row := WriteRow.ram (dlab := dlab) w (BitVec.ofNat Config.ramOffBits o) v
    rw [ramOffset_toNat o ho] at row
    exact row fits
  · cases h

theorem readRow_of_decodePlicRead (dlab : Bool) (o : Nat) (w : Width) (i : Instr)
    (h : decodePlicRead o w = .ok i) : ReadRow dlab (Config.plicBase + o) w.bytes i := by
  unfold decodePlicRead at h
  split at h
  · cases h
  · rename_i hw
    obtain rfl := not_not.mp hw
    cases hr : plicSelect o with
    | none => rw [hr] at h; cases h
    | some r =>
      obtain ⟨rfl, listed⟩ := plicSelect_some o r hr
      rw [hr] at h
      have row := ReadRow.plic (dlab := dlab) r listed
      cases r <;> cases h <;> exact row

theorem writeRow_of_decodePlicWrite (dlab : Bool) (o : Nat) (w : Width) (v : Carrier) (i : Instr)
    (h : decodePlicWrite o w (v.setWidth 32) = .ok i) : WriteRow dlab (Config.plicBase + o) w.bytes v i := by
  unfold decodePlicWrite at h
  split at h
  · cases h
  · rename_i hw
    obtain rfl := not_not.mp hw
    cases hr : plicSelect o with
    | none => rw [hr] at h; cases h
    | some r =>
      obtain ⟨rfl, listed⟩ := plicSelect_some o r hr
      rw [hr] at h
      have row := WriteRow.plic (dlab := dlab) r v listed
      cases r <;> cases h <;> exact row

theorem decodeUartRead_offset (dlab : Bool) (o : Fin 8) :
    decodeUartRead dlab o.val .w1 = .ok (uartReadRow dlab o) := by
  fin_cases o <;> rfl

theorem decodeUartWrite_offset (dlab : Bool) (o : Fin 8) (v : Byte) :
    decodeUartWrite dlab o.val .w1 v = .ok (uartWriteRow dlab o v) := by
  fin_cases o <;> rfl

theorem readRow_of_decodeUartRead (dlab : Bool) (o : Nat) (w : Width) (i : Instr) (ho : o < Config.uartSize)
    (h : decodeUartRead dlab o w = .ok i) : ReadRow dlab (Config.uartBase + o) w.bytes i := by
  by_cases hw : w = .w1
  · subst hw
    rw [decodeUartRead_offset dlab ⟨o, ho⟩] at h
    cases h
    exact .uart ⟨o, ho⟩
  · rw [show decodeUartRead dlab o w = .rejected .badWidth from if_pos hw] at h
    cases h

theorem writeRow_of_decodeUartWrite (dlab : Bool) (o : Nat) (w : Width) (v : Carrier) (i : Instr)
    (ho : o < Config.uartSize) (h : decodeUartWrite dlab o w (v.setWidth 8) = .ok i) :
    WriteRow dlab (Config.uartBase + o) w.bytes v i := by
  by_cases hw : w = .w1
  · subst hw
    rw [decodeUartWrite_offset dlab ⟨o, ho⟩] at h
    cases h
    exact .uart ⟨o, ho⟩ v
  · rw [show decodeUartWrite dlab o w _ = .rejected .badWidth from if_pos hw] at h
    cases h

theorem readRow_of_decodeSocRead (dlab : Bool) (o : Nat) (w : Width) (i : Instr)
    (h : decodeSocRead o w = .ok i) : ReadRow dlab (Config.socBase + o) w.bytes i := by
  unfold decodeSocRead at h
  cases hr : socSelect Config.socLayout o with
  | none => rw [hr] at h; cases h
  | some r =>
    obtain ⟨rfl, listed⟩ := socSelect_some o r hr
    rw [hr] at h
    dsimp only at h
    split at h
    · cases h
    · rename_i hw
      obtain rfl := not_not.mp hw
      have row := ReadRow.soc (dlab := dlab) r i listed
      cases r <;> cases h <;> exact row rfl

theorem writeRow_of_decodeSocWrite (dlab : Bool) (o : Nat) (w : Width) (v : Carrier) (i : Instr)
    (h : decodeSocWrite o w v = .ok i) : WriteRow dlab (Config.socBase + o) w.bytes v i := by
  unfold decodeSocWrite at h
  cases hr : socSelect Config.socLayout o with
  | none => rw [hr] at h; cases h
  | some r =>
    obtain ⟨rfl, listed⟩ := socSelect_some o r hr
    rw [hr] at h
    dsimp only at h
    split at h
    · cases h
    · rename_i hw
      obtain rfl := not_not.mp hw
      have row := WriteRow.soc (dlab := dlab) r v i listed
      cases r <;> cases h <;> exact row rfl

/-! ### The decoder is the register map -/

theorem readRow_of_decode (dlab : Bool) (a n : Nat) (i : Instr) (h : decode dlab (.read a n) = .ok i) :
    ReadRow dlab a n i := by
  change decodeRead dlab a n = .ok i at h
  rcases decodeRead_cases dlab a n with ⟨-, e⟩ | ⟨w, rfl, ⟨o, rfl, ho, e⟩ | ⟨o, rfl, ho, e⟩ |
    ⟨o, rfl, ho, e⟩ | ⟨o, rfl, ho, e⟩ | ⟨-, e⟩⟩ <;> rw [e] at h
  · cases h
  · exact readRow_of_decodeRamRead dlab o w i ho h
  · exact readRow_of_decodePlicRead dlab o w i h
  · exact readRow_of_decodeUartRead dlab o w i ho h
  · exact readRow_of_decodeSocRead dlab o w i h
  · cases h

theorem writeRow_of_decode (dlab : Bool) (a n : Nat) (v : Carrier) (i : Instr)
    (h : decode dlab (.write a n v) = .ok i) : WriteRow dlab a n v i := by
  change decodeWrite dlab a n v = .ok i at h
  rcases decodeWrite_cases dlab a n v with ⟨-, e⟩ | ⟨w, rfl, ⟨o, rfl, ho, e⟩ | ⟨o, rfl, ho, e⟩ |
    ⟨o, rfl, ho, e⟩ | ⟨o, rfl, ho, e⟩ | ⟨-, e⟩⟩ <;> rw [e] at h
  · cases h
  · exact writeRow_of_decodeRamWrite dlab o w v i ho h
  · exact writeRow_of_decodePlicWrite dlab o w v i h
  · exact writeRow_of_decodeUartWrite dlab o w v i ho h
  · exact writeRow_of_decodeSocWrite dlab o w v i h
  · cases h

theorem decode_of_readRow {dlab : Bool} {a n : Nat} {i : Instr} (h : ReadRow dlab a n i) :
    decode dlab (.read a n) = .ok i := by
  cases h with
  | ram w o fits =>
    simp only [decode, decodeRead, widthOf_bytes, route_ram _ o.isLt, Nat.add_sub_cancel_left, decodeRamRead,
      if_pos fits, BitVec.ofNat_toNat, BitVec.setWidth_eq]
  | plic r listed => exact decode_plicRead_readRow dlab r listed
  | uart o => exact (decode_uartRead dlab o.val o.isLt).trans (decodeUartRead_offset dlab o)
  | soc r i listed row =>
    rw [← socRead, decode_socRead dlab r listed, decodeSocRead, socSelect_offset r listed]
    cases r <;> cases row <;> rfl

theorem decode_of_writeRow {dlab : Bool} {a n : Nat} {v : Carrier} {i : Instr} (h : WriteRow dlab a n v i) :
    decode dlab (.write a n v) = .ok i := by
  cases h with
  | ram w o v fits =>
    simp only [decode, decodeWrite, widthOf_bytes, route_ram _ o.isLt, Nat.add_sub_cancel_left, decodeRamWrite,
      if_pos fits, BitVec.ofNat_toNat, BitVec.setWidth_eq]
  | plic r v listed =>
    simp only [decode, decodeWrite, widthOf, plicAddress, route_plic _ (plicOffset_lt r).1,
      Nat.add_sub_cancel_left, decodePlicWrite, plicSelect_offset r listed]
    cases r <;> rfl
  | uart o v =>
    simp only [decode, decodeWrite, widthOf, route_uart _ o.isLt, Nat.add_sub_cancel_left]
    exact decodeUartWrite_offset dlab o _
  | soc r v i listed row =>
    rw [← socWrite, decode_socWrite dlab r listed, decodeSocWrite, socSelect_offset r listed]
    cases r <;> cases row <;> rfl

/-- A READ selects the row the register map lists for its address and size, and no other. -/
theorem decode_read_iff (dlab : Bool) (a n : Nat) (i : Instr) :
    decode dlab (.read a n) = .ok i ↔ ReadRow dlab a n i :=
  ⟨readRow_of_decode dlab a n i, decode_of_readRow⟩

/-- A WRITE selects the row the register map lists for its address, size and value, and no other. -/
theorem decode_write_iff (dlab : Bool) (a n : Nat) (v : Carrier) (i : Instr) :
    decode dlab (.write a n v) = .ok i ↔ WriteRow dlab a n v i :=
  ⟨writeRow_of_decode dlab a n v i, decode_of_writeRow⟩

end Sys2Proof
end

section
/-!
PROOFS. Decoder and encoder agree (30_encoding.md sections 2 to 4): the round trip of every instruction, the
operand conditions the decoder establishes, and that no address is truncated or aliased.
-/
namespace Sys2Proof

/-! ### The request a row encodes to -/

theorem encode_plicReadRow (r : PlicReg) : encode r.readRow = plicRead r := by cases r <;> rfl

theorem encode_plicWriteRow (r : PlicReg) (v : Word) : encode (r.writeRow v) = plicWrite r v := by
  cases r <;> rfl

theorem encode_uartReadRow (dlab : Bool) (o : Fin 8) : encode (uartReadRow dlab o) = uartRead o.val := by
  fin_cases o <;> cases dlab <;> rfl

theorem encode_uartWriteRow (dlab : Bool) (o : Fin 8) (v : Byte) :
    encode (uartWriteRow dlab o v) = uartWrite o.val v := by
  fin_cases o <;> cases dlab <;> rfl

theorem encode_socReadRow (r : SocReg) (i : Instr) (h : r.readRow = some i) : encode i = socRead r := by
  cases r <;> cases h <;> rfl

/-- A value cut to a register's width and put back in the carrier (00_scope.md R13). -/
theorem cut_toNat (m : Nat) (v : Carrier) (h : m ≤ 64) :
    ((v.setWidth m).setWidth 64 : Carrier).toNat = v.toNat % 2 ^ m := by
  rw [← BitVec.toNat_setWidth m v]
  exact Machine.zext_toNat _ h

theorem truncTo_toNat (w : Width) (v : Carrier) : (truncTo w v).toNat = v.toNat % 2 ^ (8 * w.bytes) := by
  cases w
  case w1 | w2 | w4 => exact cut_toNat _ v (by decide)
  case w8 => exact (Nat.mod_eq_of_lt v.isLt).symm

theorem truncTo_lt (w : Width) (v : Carrier) : (truncTo w v).toNat < 2 ^ (8 * w.bytes) := by
  rw [truncTo_toNat]
  exact Nat.mod_lt _ (Nat.two_pow_pos _)

theorem encode_socWriteRow (r : SocReg) (v : Carrier) (i : Instr) (h : r.writeRow v = some i) :
    encode i = socWrite r (truncTo (socWidth r) v) := by
  cases r <;> cases h <;> rfl

/-- The row a READ selects encodes to that READ. -/
theorem ReadRow.encode_eq {dlab : Bool} {a n : Nat} {i : Instr} (h : ReadRow dlab a n i) :
    encode i = .read a n := by
  cases h with
  | ram w o fits => rfl
  | plic r listed => exact encode_plicReadRow r
  | uart o => exact encode_uartReadRow dlab o
  | soc r i listed row => exact encode_socReadRow r i row

/-- The row a WRITE selects encodes to the WRITE of the value cut to the width. -/
theorem WriteRow.encode_eq {dlab : Bool} {a n : Nat} {v : Carrier} {i : Instr} (h : WriteRow dlab a n v i) :
    ∃ v' : Carrier, encode i = .write a n v' ∧ v'.toNat = v.toNat % 2 ^ (8 * n) := by
  cases h with
  | ram w o v fits => exact ⟨_, rfl, truncTo_toNat w v⟩
  | plic r v listed => exact ⟨_, encode_plicWriteRow r _, cut_toNat 32 v (by decide)⟩
  | uart o v => exact ⟨_, encode_uartWriteRow dlab o _, cut_toNat 8 v (by decide)⟩
  | soc r v i listed row => exact ⟨_, encode_socWriteRow r v i row, truncTo_toNat _ v⟩

/-! ### The conditions of a selected row -/

/-- The conditions under which an instruction is an operation of the block at this value of DLAB (R113). -/
def Instr.Applies (dlab : Bool) (i : Instr) : Prop := i.wf = true ∧ i.dlabOk dlab = true

theorem ReadRow.applies {dlab : Bool} {a n : Nat} {i : Instr} (h : ReadRow dlab a n i) : i.Applies dlab := by
  cases h with
  | ram w o fits => exact ⟨decide_eq_true fits, rfl⟩
  | plic r listed =>
    cases r with
    | prio i => exact ⟨bne_iff_ne.mpr (listed i rfl), rfl⟩
    | pend _ | en _ _ | thr _ | claim _ => exact ⟨rfl, rfl⟩
  | uart o => fin_cases o <;> cases dlab <;> exact ⟨rfl, rfl⟩
  | soc r i listed row =>
    cases r with
    | pix j => cases row; exact ⟨decide_eq_true listed, rfl⟩
    | time | fbLo | kbd => cases row; exact ⟨rfl, rfl⟩
    | fbHi | poweroff => cases row

theorem WriteRow.applies {dlab : Bool} {a n : Nat} {v : Carrier} {i : Instr} (h : WriteRow dlab a n v i) :
    i.Applies dlab := by
  cases h with
  | ram w o v fits =>
    exact ⟨Bool.and_eq_true_iff.mpr ⟨decide_eq_true fits, decide_eq_true (truncTo_lt w v)⟩, rfl⟩
  | plic r v listed =>
    cases r with
    | prio i => exact ⟨bne_iff_ne.mpr (listed i rfl), rfl⟩
    | pend _ | en _ _ | thr _ | claim _ => exact ⟨rfl, rfl⟩
  | uart o v => fin_cases o <;> cases dlab <;> exact ⟨rfl, rfl⟩
  | soc r v i listed row =>
    cases r with
    | pix j => cases row; exact ⟨decide_eq_true listed, rfl⟩
    | fbHi | poweroff => cases row; exact ⟨rfl, rfl⟩
    | time | fbLo | kbd => cases row

/-! ### The requests without an address -/

theorem contextNumber_of_contextOf (n : Nat) (c : Context) (h : contextOf n = some c) :
    contextNumber c = n := by
  unfold contextOf at h
  split at h
  · rename_i hn
    rcases n with _ | _ | n
    · cases h; rfl
    · cases h; rfl
    · exact absurd hn (by show ¬ n + 1 + 1 < 2; omega)
  · cases h

theorem of_withContext (n : Nat) (f : Context → Instr) (i : Instr) (h : withContext n f = .ok i) :
    ∃ c, contextNumber c = n ∧ i = f c := by
  unfold withContext at h
  cases hc : contextOf n with
  | none => rw [hc] at h; cases h
  | some c => rw [hc] at h; cases h; exact ⟨c, contextNumber_of_contextOf n c hc, rfl⟩

theorem withContext_contextNumber (c : Context) (f : Context → Instr) :
    withContext (contextNumber c) f = .ok (f c) := by
  rw [withContext, contextOf_contextNumber]

theorem decodeIrq_val (i : SourceId) (b : Bool) : decodeIrq i.val b = .ok (.plicIrq i b) := by
  rw [decodeIrq, if_pos i.isLt, show Fin.ofNat Config.nSrc i.val = i from Fin.ext (Nat.mod_eq_of_lt i.isLt)]

/-- The request is a READ or a WRITE: it selects a row by its address (R100). -/
def Request.hasAddress (r : Request) : Bool := r.isRead || r.isWrite

/-- A request without an address selects the row that encodes to it, under that row's conditions. -/
theorem decode_without_address (dlab : Bool) (r : Request) (i : Instr) (hr : r.hasAddress = false)
    (h : decode dlab r = .ok i) : encode i = r ∧ i.Applies dlab := by
  cases r with
  | read a n | write a n v => cases hr
  | plicBest n | plicClaim n | plicComplete n v =>
    obtain ⟨c, rfl, rfl⟩ := of_withContext n _ i h
    exact ⟨rfl, rfl, rfl⟩
  | plicIrq n b =>
    change decodeIrq n b = .ok i at h
    by_cases hn : n < Config.nSrc
    · obtain ⟨j, rfl⟩ : ∃ j : SourceId, j.val = n := ⟨⟨n, hn⟩, rfl⟩
      rw [decodeIrq_val] at h
      cases h
      exact ⟨rfl, rfl, rfl⟩
    · rw [decodeIrq, if_neg hn] at h
      cases h
  | drain evs =>
    simp only [decode] at h
    split at h
    · rename_i distinct; cases h; exact ⟨rfl, distinct, rfl⟩
    · cases h
  | hostKeys ks =>
    simp only [decode] at h
    split at h
    · rename_i nonzero; cases h; exact ⟨rfl, nonzero, rfl⟩
    · cases h
  | push v =>
    cases v with
    | kbd k =>
      simp only [decode, decodePush] at h
      split at h
      · cases h
      · rename_i nonzero; cases h; exact ⟨rfl, bne_iff_ne.mpr nonzero, rfl⟩
    | rxq _ | txq _ | cmdq _ => cases h; exact ⟨rfl, rfl, rfl⟩
  | deviceClk d evs => cases d <;> cases h <;> exact ⟨rfl, rfl, rfl⟩
  | clk | poll | plicCheckInterrupt | pop _ | nonempty _ | clear _ | hostRx _ | hostTx | hostCmd | hostNow =>
    cases h
    exact ⟨rfl, rfl, rfl⟩

/-- Whatever the decoder gives is an operation of the block. -/
theorem decode_applies {dlab : Bool} {r : Request} {i : Instr} (h : decode dlab r = .ok i) :
    i.Applies dlab := by
  cases r with
  | read a n => exact (readRow_of_decode dlab a n i h).applies
  | write a n v => exact (writeRow_of_decode dlab a n v i h).applies
  | _ => exact (decode_without_address dlab _ i rfl h).2

/-- Settles O2. -/
theorem decodedInstructionsAreWellFormed : Obligations.DecodedInstructionsAreWellFormed :=
  fun _ _ _ h => decode_applies h

/-- Settles O3: what a row encodes to, over the register map. -/
theorem addressesAreNeitherTruncatedNorAliased : Obligations.AddressesAreNeitherTruncatedNorAliased :=
  ⟨fun dlab a n i h => ((decode_read_iff dlab a n i).mp h).encode_eq,
    fun dlab a n v i h => ((decode_write_iff dlab a n v i).mp h).encode_eq⟩

/-! ### The round trip -/

theorem decode_encode_plicWrite (dlab : Bool) (r : PlicReg) (v : Word) (h : ∀ i, r = .prio i → i ≠ 0) :
    decode dlab (plicWrite r v) = .ok (r.writeRow v) := by
  rw [decode_plicWrite, decodePlicWrite, if_neg (not_not.mpr rfl), plicSelect_offset r h]
  cases r <;> rfl

theorem decode_encode_uartRead (dlab : Bool) (o : Fin 8) :
    decode dlab (uartRead o.val) = .ok (uartReadRow dlab o) := (decode_read_iff ..).mpr (.uart o)

theorem decode_encode_uartWrite (dlab : Bool) (o : Fin 8) (v : Byte) :
    decode dlab (uartWrite o.val v) = .ok (uartWriteRow dlab o v) :=
  (decode_uartWrite dlab o.val v o.isLt).trans (decodeUartWrite_offset dlab o v)

theorem decode_encode_socRead (dlab : Bool) (r : SocReg) (i : Instr) (h : socRegOk r) (hi : r.readRow = some i) :
    decode dlab (socRead r) = .ok i := (decode_read_iff ..).mpr (.soc r i h hi)

theorem decode_encode_socWrite (dlab : Bool) (r : SocReg) (v : Carrier) (i : Instr) (h : socRegOk r)
    (hi : r.writeRow v = some i) : decode dlab (socWrite r v) = .ok i :=
  (decode_write_iff ..).mpr (.soc r v i h hi)

/-- A register's value put in the carrier and taken out again. -/
theorem setWidth_carrier {m : Nat} (v : BitVec m) (h : m ≤ 64) : (v.setWidth 64).setWidth m = v := by
  rw [BitVec.setWidth_setWidth_of_le _ h, BitVec.setWidth_eq]

theorem decode_encode_ramW (dlab : Bool) (w : Width) (o : BitVec Config.ramOffBits) (v : Carrier)
    (h : (Instr.ramW w o v).wf = true) : decode dlab (encode (.ramW w o v)) = .ok (.ramW w o v) := by
  obtain ⟨fits, cut⟩ := Bool.and_eq_true_iff.mp h
  have row := WriteRow.ram (dlab := dlab) w o v (of_decide_eq_true fits)
  rw [truncTo_of_lt w v (of_decide_eq_true cut)] at row
  exact decode_of_writeRow row

/-- The value of DLAB at which a row with a condition applies. -/
theorem dlab_eq_of_dlabOk {dlab b : Bool} {i : Instr} (h : i.dlabOk dlab = true) (hi : i.dlabCond = some b) :
    dlab = b := by
  rw [Instr.dlabOk, hi] at h
  exact (beq_iff_eq.mp h).symm

/-- The pixel rows' condition on their index: the word exists. -/
theorem pixWord_of_wf {j : Nat} (h : (Instr.socPixR j).wf = true) : socRegOk (.pix j) :=
  (of_decide_eq_true h : j < Config.pixWords)

/-- Decoding the request of an operation gives the operation back: by the register map for the rows with an
address, each at its register. -/
theorem decode_encode (dlab : Bool) (i : Instr) (hw : i.wf = true) (hd : i.dlabOk dlab = true) :
    decode dlab (encode i) = .ok i := by
  cases i with
  | ramR w o => exact decode_of_readRow (.ram w o (of_decide_eq_true hw))
  | ramW w o v => exact decode_encode_ramW dlab w o v hw
  | plicPrioR i => exact decode_plicRead_readRow dlab (.prio i) fun j e => by cases e; exact bne_iff_ne.mp hw
  | plicPrioW i v =>
    exact decode_encode_plicWrite dlab (.prio i) v fun j e => by cases e; exact bne_iff_ne.mp hw
  | plicPendR w => exact decode_plicRead_readRow dlab (.pend w) nofun
  | plicPendW w v => exact decode_encode_plicWrite dlab (.pend w) v nofun
  | plicEnR c w => exact decode_plicRead_readRow dlab (.en c w) nofun
  | plicEnW c w v => exact decode_encode_plicWrite dlab (.en c w) v nofun
  | plicThrR c => exact decode_plicRead_readRow dlab (.thr c) nofun
  | plicThrW c v => exact decode_encode_plicWrite dlab (.thr c) v nofun
  | plicClaimR c => exact decode_plicRead_readRow dlab (.claim c) nofun
  | plicCompleteW c v => exact decode_encode_plicWrite dlab (.claim c) v nofun
  | uartRbrR => obtain rfl := dlab_eq_of_dlabOk hd rfl; exact decode_encode_uartRead false 0
  | uartDllR => obtain rfl := dlab_eq_of_dlabOk hd rfl; exact decode_encode_uartRead true 0
  | uartThrW v => obtain rfl := dlab_eq_of_dlabOk hd rfl; exact decode_encode_uartWrite false 0 v
  | uartDllW v => obtain rfl := dlab_eq_of_dlabOk hd rfl; exact decode_encode_uartWrite true 0 v
  | uartIerR => obtain rfl := dlab_eq_of_dlabOk hd rfl; exact decode_encode_uartRead false 1
  | uartIerW v => obtain rfl := dlab_eq_of_dlabOk hd rfl; exact decode_encode_uartWrite false 1 v
  | uartDlhR => obtain rfl := dlab_eq_of_dlabOk hd rfl; exact decode_encode_uartRead true 1
  | uartDlhW v => obtain rfl := dlab_eq_of_dlabOk hd rfl; exact decode_encode_uartWrite true 1 v
  | uartIirR => exact decode_encode_uartRead dlab 2
  | uartFcrW v => exact decode_encode_uartWrite dlab 2 v
  | uartLcrR => exact decode_encode_uartRead dlab 3
  | uartLcrW v => exact decode_encode_uartWrite dlab 3 v
  | uartMcrR => exact decode_encode_uartRead dlab 4
  | uartMcrW v => exact decode_encode_uartWrite dlab 4 v
  | uartLsrR => exact decode_encode_uartRead dlab 5
  | uartLsrW v => exact decode_encode_uartWrite dlab 5 v
  | uartMsrR => exact decode_encode_uartRead dlab 6
  | uartMsrW v => exact decode_encode_uartWrite dlab 6 v
  | uartScrR => exact decode_encode_uartRead dlab 7
  | uartScrW v => exact decode_encode_uartWrite dlab 7 v
  | socTimeR => exact decode_encode_socRead dlab .time _ trivial rfl
  | socFbctlLoR => exact decode_encode_socRead dlab .fbLo _ trivial rfl
  | socKbdR => exact decode_encode_socRead dlab .kbd _ trivial rfl
  | socPixR j => exact decode_encode_socRead dlab (.pix j) _ (pixWord_of_wf hw) rfl
  | socFbctlHiW v =>
    exact decode_encode_socWrite dlab .fbHi _ _ trivial (by rw [SocReg.writeRow, setWidth_carrier v (by decide)])
  | socPoweroffW v =>
    exact decode_encode_socWrite dlab .poweroff _ _ trivial
      (by rw [SocReg.writeRow, setWidth_carrier v (by decide)])
  | socPixW j v =>
    exact decode_encode_socWrite dlab (.pix j) _ _ (pixWord_of_wf hw)
      (by rw [SocReg.writeRow, setWidth_carrier v (by decide)])
  | plicBest c | plicClaim c | plicComplete c v => exact withContext_contextNumber c _
  | plicIrq i b => exact decodeIrq_val i b
  | busDrain evs | hostKeys ks => exact if_pos hw
  | channelPush v =>
    cases v with
    | kbd k => exact if_neg (bne_iff_ne.mp hw)
    | rxq _ | txq _ | cmdq _ => rfl
  | clk | poll | plicCheckInterrupt | ramClk _ | plicClk _ | uartClk _ | socClk _ | channelPop _
  | channelNonempty _ | channelClear _ | hostRx _ | hostTx | hostCmd | hostNow => rfl

/-- Settles O1. -/
theorem decodeOfEncodeIsTheInstruction : Obligations.DecodeOfEncodeIsTheInstruction := decode_encode

/-! ### The address map -/

/-- Settles O4: the listed addresses are those of their registers in the map. -/
theorem registerMapSelectsTheListedRegisters : Obligations.RegisterMapSelectsTheListedRegisters :=
  ⟨decode_plicPrioR false 5 (by decide), decode_encode_plicWrite false (.en .supervisor 31) 0x80000000#32 nofun,
    decode_plicClaimR false .machine, decode_encode_plicWrite false (.claim .supervisor) 5#32 nofun,
    decode_uartRead_zero false, decode_uartRead_zero true,
    decode_of_readRow (.ram .w1 0x3FFFFFFF#30 (by decide))⟩

open Config in
/-- The four windows (20_memory.md R71), for arithmetic over addresses. -/
theorem device_map : plicBase = 0x0C000000 ∧ plicSize = 0x4000000 ∧ uartBase = 0x10000000 ∧ uartSize = 8 ∧
    socBase = 0x20000000 ∧ socSize = 0x10000000 ∧ ramBase = 0x80000000 ∧ ramSize = 0x40000000 :=
  ⟨rfl, rfl, rfl, rfl, rfl, rfl, rfl, rfl⟩

/-- Settles O6: one case per device at the address, or none. -/
theorem routeFollowsTheAddressMap : Obligations.RouteFollowsTheAddressMap := by
  intro a
  obtain ⟨_, _, _, _, _, _, _, _⟩ := device_map
  rcases route_cases a with ⟨o, rfl, ho, hr⟩ | ⟨o, rfl, ho, hr⟩ | ⟨o, rfl, ho, hr⟩ | ⟨o, rfl, ho, hr⟩ |
    ⟨hr, h1, h2, h3, h4⟩ <;> simp only [hr, Option.some.injEq, reduceCtorEq, true_iff, false_iff]
  all_goals omega

end Sys2Proof
end

section
/-!
PROOFS. RAM and the pixel buffer (40_bus_memory.md R136, R137; 43_soc_aux.md R256, R257): a value read bit by bit, a
value written byte by byte, and that the canonical form determines the memory.
-/
namespace Sys2Proof.Machine

/-! ### Canonical stores -/

section Sparse
variable {α : Type} (d : Nat → α)

theorem sparseWf_cons_iff [DecidableEq α] (k : Nat) (v : α) (m : List (Nat × α)) :
    sparseWf d ((k, v) :: m) = true ↔ v ≠ d k ∧ sparseAbove k m = true ∧ sparseWf d m = true := by
  simp [sparseWf, and_assoc]

theorem sparseGet_cons_self (k : Nat) (v : α) (m : List (Nat × α)) : sparseGet d ((k, v) :: m) k = v :=
  if_pos rfl

/-- A canonical store that begins above `k` reads at `k` as an unlisted key. -/
theorem sparseGet_cons_of_lt (k j : Nat) (v : α) (m : List (Nat × α)) (hkj : k < j)
    (h : sparseAbove j m = true) : sparseGet d ((j, v) :: m) k = d k := by
  have above : sparseAbove k m = true := sparseAbove_mono m k j hkj.le h
  exact sparseGet_of_above d _ k (Bool.and_eq_true_iff.mpr ⟨decide_eq_true hkj, above⟩)

/-- Two canonical stores that begin with one key and read alike read alike after it. -/
theorem sparseGet_tail_eq (k : Nat) (v v' : α) (m m' : List (Nat × α)) (hm : sparseAbove k m = true)
    (hm' : sparseAbove k m' = true)
    (h : ∀ i, sparseGet d ((k, v) :: m) i = sparseGet d ((k, v') :: m') i) (i : Nat) :
    sparseGet d m i = sparseGet d m' i := by
  by_cases hi : i = k
  · rw [hi, sparseGet_of_above d m k hm, sparseGet_of_above d m' k hm']
  · simpa [sparseGet, hi] using h i

/-- Canonical stores that read alike are equal: their first keys agree, for the lower one would be listed in one
store and read as unlisted in the other. -/
theorem sparse_ext [DecidableEq α] (m m' : List (Nat × α)) (hm : sparseWf d m = true) (hm' : sparseWf d m' = true)
    (h : ∀ i, sparseGet d m i = sparseGet d m' i) : m = m' := by
  induction m generalizing m' with
  | nil =>
    cases m' with
    | nil => rfl
    | cons e t' =>
      obtain ⟨listed, -, -⟩ := (sparseWf_cons_iff d e.1 e.2 t').mp hm'
      exact absurd ((sparseGet_cons_self d e.1 e.2 t').symm.trans (h e.1).symm) listed
  | cons e t ih =>
    obtain ⟨k, v⟩ := e
    obtain ⟨listed, above, wf⟩ := (sparseWf_cons_iff d k v t).mp hm
    have hk : sparseGet d m' k = v := (h k).symm.trans (sparseGet_cons_self d k v t)
    cases m' with
    | nil => exact absurd hk.symm listed
    | cons e' t' =>
      obtain ⟨k', v'⟩ := e'
      obtain ⟨listed', above', wf'⟩ := (sparseWf_cons_iff d k' v' t').mp hm'
      rcases lt_trichotomy k k' with lt | rfl | gt
      · exact absurd (hk.symm.trans (sparseGet_cons_of_lt d k k' v' t' lt above')) listed
      · obtain rfl : v' = v := (sparseGet_cons_self d k v' t').symm.trans hk
        rw [ih t' wf wf' (sparseGet_tail_eq d k v' v' t t' above above' h)]
      · have hk' : sparseGet d ((k, v) :: t) k' = v' := (h k').trans (sparseGet_cons_self d k' v' t')
        exact absurd (hk'.symm.trans (sparseGet_cons_of_lt d k' k v t gt above)) listed'

end Sparse

/-- Settles O23. -/
theorem canonicalMemoriesThatReadAlikeAreEqual : Obligations.CanonicalMemoriesThatReadAlikeAreEqual := by
  intro m m' hm hm' h
  exact sparse_ext Memory.initial m m' (Bool.and_eq_true_iff.mp hm).1 (Bool.and_eq_true_iff.mp hm').1 h

/-! ### The bits of a value read -/

/-- Bit `i` of a value read is bit `i mod 8` of the byte `i / 8` above the address (20_memory.md R74). -/
theorem Memory.read_getLsbD (m : Memory) (a n i : Nat) (hi : i < 64) :
    (m.read a n).getLsbD i = (decide (i < 8 * n) && (m.readByte (a + i / 8)).getLsbD (i % 8)) := by
  induction n generalizing a i with
  | zero => simp [Memory.read]
  | succ n ih =>
    rw [Memory.read, joinByte_getLsbD _ _ i hi]
    split
    · rename_i low
      rw [Nat.div_eq_of_lt low, Nat.mod_eq_of_lt low, decide_eq_true (by omega)]
      rfl
    · rename_i high
      rw [ih (a + 1) (i - 8) (by omega), show a + 1 + (i - 8) / 8 = a + i / 8 by omega,
        show (i - 8) % 8 = i % 8 by omega, show decide (i - 8 < 8 * n) = decide (i < 8 * (n + 1)) from
          decide_eq_decide.mpr (by omega)]

/-- A value of `n` bytes is below `2 ^ (8 n)`. -/
theorem Memory.read_lt (m : Memory) (a n : Nat) : (m.read a n).toNat < 2 ^ (8 * n) := by
  refine Nat.lt_pow_two_of_testBit _ fun i hi => ?_
  rw [BitVec.testBit_toNat]
  by_cases h64 : i < 64
  · rw [m.read_getLsbD a n i h64, decide_eq_false (by omega), Bool.false_and]
  · exact BitVec.getLsbD_of_ge _ _ (by omega)

/-- Byte `k` of a carrier, least significant first (20_memory.md R74), bit by bit. -/
theorem byte_getLsbD (v : Carrier) (k j : Nat) (hj : j < 8) :
    ((v >>> (8 * k)).setWidth 8).getLsbD j = v.getLsbD (8 * k + j) := by
  simp [hj]

/-- Byte `k` of a value read is the byte at the address plus `k` (40_bus_memory.md R136). -/
theorem Memory.read_byte (m : Memory) (a n k : Nat) (hk : k < n) (hn : n ≤ 8) :
    (m.read a n >>> (8 * k)).setWidth 8 = m.readByte (a + k) := by
  refine BitVec.eq_of_getLsbD_eq fun j hj => ?_
  rw [byte_getLsbD _ k j hj, m.read_getLsbD a n _ (by omega), decide_eq_true (by omega), Bool.true_and,
    show (8 * k + j) / 8 = k by omega, show (8 * k + j) % 8 = j by omega]

/-! ### The bytes of a value written -/

/-- The byte at the address plus `k` after a write is byte `k` of the value (40_bus_memory.md R137). -/
theorem Memory.write_readByte_inside (m : Memory) (a n : Nat) (v : Carrier) (k : Nat) (hk : k < n) :
    (m.write a n v).readByte (a + k) = (v >>> (8 * k)).setWidth 8 := by
  induction n generalizing m a v k with
  | zero => omega
  | succ n ih =>
    rw [Memory.write]
    cases k with
    | zero =>
      rw [Memory.write_readByte_outside _ _ _ _ _ (by omega), Memory.readByte_writeByte,
        if_pos (Nat.add_zero a)]
      rfl
    | succ k =>
      rw [show a + (k + 1) = a + 1 + k by omega, ih _ _ _ k (by omega), ← BitVec.shiftRight_add,
        show 8 + 8 * k = 8 * (k + 1) by omega]

/-- A value that fits its width is read back (95_test_vectors.md S1). -/
theorem Memory.read_write (m : Memory) (a n : Nat) (v : Carrier) (hv : v.toNat < 2 ^ (8 * n)) :
    (m.write a n v).read a n = v := by
  refine BitVec.eq_of_getLsbD_eq fun i hi => ?_
  rw [Memory.read_getLsbD _ a n i hi]
  by_cases inside : i < 8 * n
  · rw [decide_eq_true inside, Bool.true_and, Memory.write_readByte_inside m a n v _ (by omega),
      byte_getLsbD v _ _ (by omega), show 8 * (i / 8) + i % 8 = i by omega]
  · rw [decide_eq_false inside, Bool.false_and, ← BitVec.testBit_toNat]
    exact (Nat.testBit_eq_false_of_lt
      (hv.trans_le (Nat.pow_le_pow_right (by decide) (Nat.le_of_not_lt inside)))).symm

/-! ### The operations -/

theorem Width.bytes_le (w : Width) : w.bytes ≤ 8 := by cases w <;> decide

@[simp] theorem zext_carrier (v : Carrier) : zext v = v := BitVec.setWidth_eq v

theorem not_pastRam (w : Width) (o : BitVec Config.ramOffBits) (h : o.toNat + w.bytes ≤ Config.ramSize) :
    ¬ pastRam w o = true := by
  simpa [pastRam] using h

/-- RAM.R inside RAM (R136). -/
theorem exec_ramR (w : Width) (o : BitVec Config.ramOffBits) (s : State)
    (h : o.toNat + w.bytes ≤ Config.ramSize) :
    exec (.ramR w o) s = .next (s.respond (.value (s.ram.read (ramAddress o) w.bytes))) := by
  rw [show exec (.ramR w o) s = execRamR w o s from rfl, execRamR, if_neg (not_pastRam w o h),
    State.readAnswer_eq, zext_carrier]

/-- RAM.W inside RAM (R137). -/
theorem exec_ramW (w : Width) (o : BitVec Config.ramOffBits) (v : Carrier) (s : State)
    (h : o.toNat + w.bytes ≤ Config.ramSize) :
    exec (.ramW w o v) s = .next ((s.withRam (s.ram.write (ramAddress o) w.bytes v)).respond .done) := by
  rw [show exec (.ramW w o v) s = execRamW w o v s from rfl, execRamW, if_neg (not_pastRam w o h)]

/-- Settles O20: the value read, by its bound and its bytes. -/
theorem ramReadsAreLittleEndian : Obligations.RamReadsAreLittleEndian := by
  intro s w o fits
  exact ⟨_, exec_ramR w o s fits, Memory.read_lt _ _ _,
    fun k hk => Memory.read_byte _ _ _ k hk (Width.bytes_le w)⟩

/-- Settles O21: the bytes inside the write and those outside. -/
theorem ramWritesStoreTheirBytesAlone : Obligations.RamWritesStoreTheirBytesAlone := by
  intro s w o v fits
  exact ⟨_, exec_ramW w o v s fits, fun k hk => Memory.write_readByte_inside _ _ _ v k hk,
    fun a outside => Memory.write_readByte_outside _ _ _ v a outside⟩

/-- Settles O22. -/
theorem ramReadAfterWriteReturnsTheValue : Obligations.RamReadAfterWriteReturnsTheValue := by
  intro s w o v fits small
  refine ⟨_, exec_ramW w o v s fits, ?readBack, fun canonical => ?form⟩
  case readBack =>
    rw [exec_ramR w o _ fits, State.respond_ram, State.withRam_ram, Memory.read_write _ _ _ v small]
    rfl
  case form =>
    exact Memory.wf_write _ _ _ v canonical (Nat.le_add_right _ _)
      (by rw [ramAddress, Nat.add_assoc]; exact Nat.add_le_add_left fits _)

theorem exec_socPixR (j : Nat) (s : State) : exec (.socPixR j) s =
    .next (if j < Config.pixWords then s.readAnswer (s.soc.pix.readWord j) else s.raiseAccessFault) := rfl

theorem exec_socPixW (j : Nat) (v : Word) (s : State) : exec (.socPixW j v) s =
    .next (if j < Config.pixWords then
      (s.withSoc { s.soc with pix := s.soc.pix.writeWord j v }).respond .done
    else s.raiseAccessFault) := rfl

/-- Settles O49: the word written and the others by `PixMem.readWord_writeWord`. -/
theorem pixelWordsAreStoredAndReadBack : Obligations.PixelWordsAreStoredAndReadBack := by
  intro s j v
  refine ⟨s.soc.pix.writeWord j v, exec_socPixW j v s, fun k => PixMem.readWord_writeWord _ j k v, ?_⟩
  rw [exec_socPixR]
  split
  · rfl
  · rfl

end Sys2Proof.Machine
end

section
/-!
PROOFS. What a READ or WRITE answers (60_exceptions.md R300 to R302; 30_encoding.md R109): a value below its width's
bound, done, or the access fault, which changes nothing and depends on direction, size and address alone.
-/
namespace Sys2Proof

/-! ### What the register map lists -/

/-- The address and size of some register or of bytes of RAM. -/
inductive Listed : Nat → Nat → Prop where
  | ram (w : Width) (o : BitVec Config.ramOffBits) (fits : o.toNat + w.bytes ≤ Config.ramSize) :
      Listed (Config.ramBase + o.toNat) w.bytes
  | plic (r : PlicReg) (listed : ∀ i, r = .prio i → i ≠ 0) : Listed (plicAddress r) 4
  | uart (o : Fin 8) : Listed (Config.uartBase + o.val) 1
  | soc (r : SocReg) (listed : socRegOk r) :
      Listed (Config.socBase + socOffset Config.socLayout r) (socWidth r).bytes

theorem ReadRow.listed {dlab : Bool} {a n : Nat} {i : Instr} (h : ReadRow dlab a n i) : Listed a n := by
  cases h with
  | ram w o fits => exact .ram w o fits
  | plic r listed => exact .plic r listed
  | uart o => exact .uart o
  | soc r i listed row => exact .soc r listed

theorem WriteRow.listed {dlab : Bool} {a n : Nat} {v : Carrier} {i : Instr} (h : WriteRow dlab a n v i) :
    Listed a n := by
  cases h with
  | ram w o v fits => exact .ram w o fits
  | plic r v listed => exact .plic r listed
  | uart o v => exact .uart o
  | soc r v i listed row => exact .soc r listed

/-- A listed PLIC register lies in none of the gaps of 41_plic.md R175, R176. -/
theorem plicOffset_not_gap (r : PlicReg) (h : ∀ i, r = .prio i → i ≠ 0) :
    ¬ (plicOffset r % 4 ≠ 0 ∨ plicOffset r = 0 ∨ (0x1080 ≤ plicOffset r ∧ plicOffset r < 0x2000) ∨
      (0x2100 ≤ plicOffset r ∧ plicOffset r < 0x200000) ∨
      (0x200008 ≤ plicOffset r ∧ plicOffset r < 0x201000) ∨ 0x201008 ≤ plicOffset r) := by
  intro gap
  have nothing := plicSelect_gap _ gap
  rw [plicSelect_offset r h] at nothing
  cases nothing

/-- The places that 30_encoding.md R109 lists as faulting in both directions: no width, no range, past the end of
RAM, a gap or wrong width of the PLIC window, a wrong width of the UART window. -/
def Unlisted (a n : Nat) : Prop :=
  (n ≠ 1 ∧ n ≠ 2 ∧ n ≠ 4 ∧ n ≠ 8) ∨ a < 0x0C000000 ∨ (0x10000008 ≤ a ∧ a < 0x20000000) ∨
    (0x30000000 ≤ a ∧ a < 0x80000000) ∨ 0xC0000000 ≤ a ∨ (0x80000000 ≤ a ∧ 0xC0000000 < a + n) ∨
    (0x0C000000 ≤ a ∧ a < 0x10000000 ∧
      (n ≠ 4 ∨ a % 4 ≠ 0 ∨ a = 0x0C000000 ∨ (0x0C001080 ≤ a ∧ a < 0x0C002000) ∨
        (0x0C002100 ≤ a ∧ a < 0x0C200000) ∨ (0x0C200008 ≤ a ∧ a < 0x0C201000) ∨
        0x0C201008 ≤ a)) ∨
    (0x10000000 ≤ a ∧ a < 0x10000008 ∧ n ≠ 1)

theorem Width.bytes_cases (w : Width) : w.bytes = 1 ∨ w.bytes = 2 ∨ w.bytes = 4 ∨ w.bytes = 8 := by
  cases w <;> decide

theorem Listed.not_unlisted {a n : Nat} (h : Listed a n) : ¬ Unlisted a n := by
  obtain ⟨pb, ps, ub, us, sb, ss, rb, rs⟩ := device_map
  unfold Unlisted
  cases h with
  | ram w o fits =>
    have := w.bytes_cases
    omega
  | plic r listed =>
    have gap := plicOffset_not_gap r listed
    have inside := (plicOffset_lt r).1
    rw [plicAddress]
    omega
  | uart o =>
    have := o.isLt
    omega
  | soc r listed =>
    have := (socWidth r).bytes_cases
    have := socOffset_lt r listed
    omega

/-! ### Rows that are the fault -/

/-- The write sides of the registers that can only be read: the pending bitmap (41_plic.md R168), line status and
modem status (42_uart.md R216, R218). -/
def Instr.readOnly (i : Instr) : Bool :=
  match i with
  | .plicPendW _ _ | .uartLsrW _ | .uartMsrW _ => true
  | _ => false

/-- Whether a WRITE selects such a row does not depend on DLAB or the value. -/
theorem WriteRow.any {dlab : Bool} {a n : Nat} {v : Carrier} {i : Instr} (h : WriteRow dlab a n v i)
    (dlab' : Bool) (v' : Carrier) : ∃ j, WriteRow dlab' a n v' j ∧ j.readOnly = i.readOnly := by
  cases h with
  | ram w o v fits => exact ⟨_, .ram w o v' fits, rfl⟩
  | plic r v listed => exact ⟨_, .plic r v' listed, by cases r <;> rfl⟩
  | uart o v => exact ⟨_, .uart o v', by fin_cases o <;> cases dlab <;> cases dlab' <;> rfl⟩
  | soc r v i listed row =>
    cases r with
    | fbHi => cases row; exact ⟨_, .soc .fbHi v' _ trivial rfl, rfl⟩
    | poweroff => cases row; exact ⟨_, .soc .poweroff v' _ trivial rfl, rfl⟩
    | pix j => cases row; exact ⟨_, .soc (.pix j) v' _ listed rfl, rfl⟩
    | time | fbLo | kbd => cases row

/-- Whether a READ selects a row does not depend on DLAB. -/
theorem ReadRow.any {dlab : Bool} {a n : Nat} {i : Instr} (h : ReadRow dlab a n i) (dlab' : Bool) :
    ∃ j, ReadRow dlab' a n j := by
  cases h with
  | ram w o fits => exact ⟨_, .ram w o fits⟩
  | plic r listed => exact ⟨_, .plic r listed⟩
  | uart o => exact ⟨_, .uart o⟩
  | soc r i listed row => exact ⟨_, .soc r i listed row⟩

/-- A WRITE to the pending bitmap or to UART offsets 5 and 6 selects a row that is the fault, if any. -/
theorem WriteRow.readOnly_of_address {dlab : Bool} {a n : Nat} {v : Carrier} {i : Instr}
    (h : WriteRow dlab a n v i)
    (ha : (0x0C001000 ≤ a ∧ a < 0x0C001080) ∨ a = 0x10000005 ∨ a = 0x10000006) : i.readOnly = true := by
  obtain ⟨pb, ps, ub, us, sb, ss, rb, rs⟩ := device_map
  obtain ⟨-, c0, c1, c2, c3, c4, c5, c6, c7, c8⟩ := plic_map
  cases h with
  | ram w o v fits => omega
  | plic r v listed =>
    have inside := (plicOffset_lt r).1
    cases r with
    | pend w => rfl
    | prio i => have := i.isLt; simp only [plicAddress, plicOffset] at ha inside; omega
    | en c w => simp only [plicAddress, plicOffset] at ha inside; omega
    | thr c => simp only [plicAddress, plicOffset] at ha inside; omega
    | claim c => simp only [plicAddress, plicOffset] at ha inside; omega
  | uart o v =>
    obtain rfl | rfl : o = 5 ∨ o = 6 := by
      have := o.isLt
      rw [Fin.ext_iff, Fin.ext_iff]
      show o.val = 5 ∨ o.val = 6
      omega
    · rfl
    · rfl
  | soc r v i listed row => omega

/-! ### The SoC window -/

theorem ReadRow.soc_inv {dlab : Bool} {o n : Nat} {i : Instr} (h : ReadRow dlab (0x20000000 + o) n i)
    (ho : o < 0x10000000) : ∃ r, socRegOk r ∧ o = socOffset Config.socLayout r ∧ n = (socWidth r).bytes ∧
      r.readRow = some i := by
  obtain ⟨pb, ps, ub, us, sb, ss, rb, rs⟩ := device_map
  generalize ha : 0x20000000 + o = a at h
  cases h with
  | ram w o' fits => omega
  | plic r listed => have := (plicOffset_lt r).1; rw [plicAddress] at ha; omega
  | uart o' => omega
  | soc r i listed row => exact ⟨r, listed, by omega, rfl, row⟩

theorem WriteRow.soc_inv {dlab : Bool} {o n : Nat} {v : Carrier} {i : Instr}
    (h : WriteRow dlab (0x20000000 + o) n v i) (ho : o < 0x10000000) :
    ∃ r, socRegOk r ∧ o = socOffset Config.socLayout r ∧ n = (socWidth r).bytes ∧ r.writeRow v = some i := by
  obtain ⟨pb, ps, ub, us, sb, ss, rb, rs⟩ := device_map
  generalize ha : 0x20000000 + o = a at h
  cases h with
  | ram w o' v fits => omega
  | plic r v listed => have := (plicOffset_lt r).1; rw [plicAddress] at ha; omega
  | uart o' v => omega
  | soc r v i listed row => exact ⟨r, listed, by omega, rfl, row⟩

/-- The words of the pixel buffer, by offset (43_soc_aux.md R250). -/
theorem pixOffset_listed (j : Nat) (h : socRegOk (.pix j)) :
    Config.socLayout.offPix ≤ socOffset Config.socLayout (.pix j) ∧
    socOffset Config.socLayout (.pix j) < Config.socLayout.offPix + Config.socLayout.pixBytes ∧
    (socOffset Config.socLayout (.pix j) - Config.socLayout.offPix) % 4 = 0 := by
  obtain ⟨-, ⟨-, -, -, -, whole⟩, -⟩ := socLayout_facts
  simp only [socRegOk, Config.pixWords] at h
  simp only [socOffset]
  omega

end Sys2Proof

namespace Sys2Proof.Machine

/-! ### What a row answers under its conditions -/

/-- The answer of a READ of `n` bytes that does not fault: a value below `2 ^ (8 n)` (00_scope.md R13). -/
def Response.ValueBelow (n : Nat) (r : Response) : Prop := ∃ v : Carrier, r = .value v ∧ v.toNat < 2 ^ (8 * n)

theorem valueBelow_readAnswer {m n : Nat} (s : State) (v : BitVec m) (hm : m ≤ 64) (hn : m ≤ 8 * n) :
    AnswersIn (Response.ValueBelow n) (.next (s.readAnswer v)) := by
  refine ⟨_, rfl, zext v, rfl, ?_⟩
  rw [zext_toNat v hm]
  exact v.isLt.trans_le (Nat.pow_le_pow_right (by decide) hn)

theorem exec_plicReadRow_answers (r : PlicReg) (h : ∀ i, r = .prio i → i ≠ 0) (s : State) :
    AnswersIn (Response.ValueBelow 4) (exec r.readRow s) := by
  cases r with
  | prio i =>
    rw [show exec (PlicReg.prio i).readRow s = _ from exec_plicPrioR i (h i rfl) s]
    exact valueBelow_readAnswer s _ (by decide) (by decide)
  | pend _ | en _ _ | thr _ | claim _ => exact valueBelow_readAnswer _ _ (by decide) (by decide)

theorem exec_uartReadRow_answers (dlab : Bool) (o : Fin 8) (s : State) :
    AnswersIn (Response.ValueBelow 1) (exec (uartReadRow dlab o) s) := by
  fin_cases o <;> cases dlab <;> exact valueBelow_readAnswer _ _ (by decide) (by decide)

theorem exec_socReadRow_answers (r : SocReg) (i : Instr) (h : socRegOk r) (hi : r.readRow = some i)
    (s : State) : AnswersIn (Response.ValueBelow (socWidth r).bytes) (exec i s) := by
  cases r with
  | pix j =>
    cases hi
    rw [exec_socPixR, if_pos (show j < Config.pixWords from h)]
    exact valueBelow_readAnswer s _ (by decide) (Nat.le_refl 32)
  | time | fbLo | kbd => cases hi; exact valueBelow_readAnswer _ _ (by decide) (by decide)
  | fbHi | poweroff => cases hi

/-- A READ that selects a row answers a value below its width's bound. -/
theorem exec_readRow_answers {dlab : Bool} {a n : Nat} {i : Instr} (h : ReadRow dlab a n i) (s : State) :
    AnswersIn (Response.ValueBelow n) (exec i s) := by
  cases h with
  | ram w o fits => exact ⟨_, exec_ramR w o s fits, _, rfl, Memory.read_lt _ _ _⟩
  | plic r listed => exact exec_plicReadRow_answers r listed s
  | uart o => exact exec_uartReadRow_answers dlab o s
  | soc r i listed row => exact exec_socReadRow_answers r i listed row s

theorem exec_of_readOnly (i : Instr) (h : i.readOnly = true) (s : State) :
    exec i s = .next (s.respond .accessFault) := by
  cases i with
  | plicPendW _ _ | uartLsrW _ | uartMsrW _ => rfl
  | _ => cases h

theorem done_respond (s : State) : AnswersIn (· = .done) (.next (s.respond .done)) := ⟨_, rfl, rfl⟩

theorem exec_plicPrioW (i : SourceId) (v : Word) (h : i ≠ 0) (s : State) :
    exec (.plicPrioW i v) s = .next ((s.withPlic (s.plic.setPrio i.val v)).respond .done) :=
  congrArg Host.Outcome.next (if_neg h)

/-- A WRITE that selects a row which is not the fault answers done. -/
theorem exec_writeRow_answers {dlab : Bool} {a n : Nat} {v : Carrier} {i : Instr} (h : WriteRow dlab a n v i)
    (writable : i.readOnly = false) (s : State) : AnswersIn (· = .done) (exec i s) := by
  cases h with
  | ram w o v fits => rw [exec_ramW w o _ s fits]; exact done_respond _
  | plic r v listed =>
    cases r with
    | prio i =>
      rw [show exec ((PlicReg.prio i).writeRow (v.setWidth 32)) s = _ from exec_plicPrioW i _ (listed i rfl) s]
      exact done_respond _
    | pend w => cases writable
    | en _ _ | thr _ | claim _ => exact done_respond _
  | uart o v =>
    match o with
    | 0 | 1 => cases dlab <;> exact done_respond _
    | 2 | 3 | 4 | 7 => exact done_respond _
    | 5 | 6 => cases writable
  | soc r v i listed row =>
    cases r with
    | pix j =>
      cases row
      rw [exec_socPixW, if_pos (show j < Config.pixWords from listed)]
      exact done_respond _
    | fbHi | poweroff => cases row; exact done_respond _
    | time | fbLo | kbd => cases row

/-! ### What the step answers -/

/-- The state with the request it holds first put there again. -/
theorem State.eq_of_trace {s : State} {r : Request} {rest : List Request} (h : s.trace = r :: rest) :
    { s with trace := r :: rest } = s := by rw [← h]

theorem step_eq_exec {s : State} {r : Request} {rest : List Request} {i : Instr} (h : s.trace = r :: rest)
    (hd : decode s.uart.dlab r = .ok i) : step s = exec i { s with trace := rest } := by
  rw [← step_of_decode_ok s r rest i hd, State.eq_of_trace h]

theorem step_eq_reject {s : State} {r : Request} {rest : List Request} {e : Reject} (h : s.trace = r :: rest)
    (hd : decode s.uart.dlab r = .rejected e) : step s = State.reject { s with trace := rest } e := by
  rw [← step_of_decode_rejected s r rest e hd, State.eq_of_trace h]

/-- With an empty trace a step changes nothing (60_exceptions.md R319). -/
theorem step_of_idle {s : State} (h : s.trace = []) : step s = .next s := by
  simp only [step, State.fetch, h]

/-- Settles O5. -/
theorem stepRunsTheDecodedInstruction : Obligations.StepRunsTheDecodedInstruction := by
  refine ⟨fun s r rest i h hd => step_eq_exec h hd, fun s r rest e h hd cause => ?rejected,
    fun s h => step_of_idle h⟩
  case rejected =>
    rw [step_eq_reject h hd]
    rcases cause with rfl | rfl | rfl <;> rfl

/-- A READ that selects no row faults and changes nothing. -/
theorem step_read_of_no_row (s : State) (rest : List Request) (a n : Nat)
    (h : ∀ i, ¬ ReadRow s.uart.dlab a n i) : step { s with trace := .read a n :: rest } =
      .next { s with trace := rest, resp := .accessFault } := by
  have access := decodeRead_access s.uart.dlab a n
  generalize hd : decodeRead s.uart.dlab a n = d at access
  cases access with
  | row i _ => exact absurd (readRow_of_decode _ a n i hd) (h i)
  | fault e answer => exact (step_of_decode_rejected s (.read a n) rest e hd).trans (answer _)

/-- A WRITE that selects no row, or one that is the fault, faults and changes nothing. -/
theorem step_write_of_readOnly (s : State) (rest : List Request) (a n : Nat) (v : Carrier)
    (h : ∀ i, WriteRow s.uart.dlab a n v i → i.readOnly = true) : step { s with trace := .write a n v :: rest } =
      .next { s with trace := rest, resp := .accessFault } := by
  have access := decodeWrite_access s.uart.dlab a n v
  generalize hd : decodeWrite s.uart.dlab a n v = d at access
  cases access with
  | row i _ =>
    rw [step_of_decode_ok s (.write a n v) rest i hd,
      exec_of_readOnly i (h i (writeRow_of_decode _ a n v i hd))]
    rfl
  | fault e answer => exact (step_of_decode_rejected s (.write a n v) rest e hd).trans (answer _)

/-- Settles O7: what the register map lists is not among the listed faults, and the rows of the second clause are
the fault. -/
theorem accessesThatSelectNoRegisterFault : Obligations.AccessesThatSelectNoRegisterFault := by
  refine ⟨fun s rest a n v unlisted => ⟨?read, ?write⟩, fun s rest a n v ha => ?readOnly⟩
  case read => exact step_read_of_no_row s rest a n fun i row => row.listed.not_unlisted unlisted
  case write =>
    exact step_write_of_readOnly s rest a n v fun i row => absurd unlisted row.listed.not_unlisted
  case readOnly => exact step_write_of_readOnly s rest a n v fun i row => row.readOnly_of_address ha

/-- Settles O8: a case per register that can be read or written. -/
theorem socAccessesOutsideTheTableFault : Obligations.SocAccessesOutsideTheTableFault := by
  intro s rest o n v ho
  refine ⟨fun notTime notFb notKbd notPix => step_read_of_no_row s rest _ n fun i h => ?read,
    fun notFb notPoweroff notPix => step_write_of_readOnly s rest _ n v fun i h => ?write⟩
  case read =>
    obtain ⟨r, listed, rfl, rfl, row⟩ := h.soc_inv ho
    cases r with
    | time => exact notTime ⟨rfl, rfl⟩
    | fbLo => exact notFb ⟨rfl, rfl⟩
    | kbd => exact notKbd ⟨rfl, rfl⟩
    | pix j =>
      obtain ⟨above, below, aligned⟩ := pixOffset_listed j listed
      exact notPix ⟨above, below, aligned, rfl⟩
    | fbHi | poweroff => cases row
  case write =>
    obtain ⟨r, listed, rfl, rfl, row⟩ := h.soc_inv ho
    cases r with
    | fbHi => exact absurd ⟨rfl, rfl⟩ notFb
    | poweroff => exact absurd ⟨rfl, rfl⟩ notPoweroff
    | pix j =>
      obtain ⟨above, below, aligned⟩ := pixOffset_listed j listed
      exact absurd ⟨above, below, aligned, rfl⟩ notPix
    | time | fbLo | kbd => cases row

/-- A READ answers a value below its width's bound when it selects a row, and the fault otherwise. -/
theorem step_read_cases (s : State) (rest : List Request) (a n : Nat) :
    ((∃ i, ReadRow s.uart.dlab a n i) ∧
      AnswersIn (Response.ValueBelow n) (step { s with trace := .read a n :: rest })) ∨
    ((∀ i, ¬ ReadRow s.uart.dlab a n i) ∧
      step { s with trace := .read a n :: rest } = .next { s with trace := rest, resp := .accessFault }) := by
  by_cases h : ∃ i, ReadRow s.uart.dlab a n i
  · obtain ⟨i, row⟩ := h
    refine .inl ⟨⟨i, row⟩, ?_⟩
    rw [step_of_decode_ok s _ rest i (decode_of_readRow row)]
    exact exec_readRow_answers row _
  · exact .inr ⟨not_exists.mp h, step_read_of_no_row s rest a n (not_exists.mp h)⟩

/-- A WRITE answers done when it selects a row that is not the fault, and the fault otherwise. -/
theorem step_write_cases (s : State) (rest : List Request) (a n : Nat) (v : Carrier) :
    ((∃ i, WriteRow s.uart.dlab a n v i ∧ i.readOnly = false) ∧
      AnswersIn (· = .done) (step { s with trace := .write a n v :: rest })) ∨
    ((∀ i, WriteRow s.uart.dlab a n v i → i.readOnly = true) ∧
      step { s with trace := .write a n v :: rest } = .next { s with trace := rest, resp := .accessFault }) := by
  by_cases h : ∃ i, WriteRow s.uart.dlab a n v i ∧ i.readOnly = false
  · obtain ⟨i, row, writable⟩ := h
    refine .inl ⟨⟨i, row, writable⟩, ?_⟩
    rw [step_of_decode_ok s _ rest i (decode_of_writeRow row)]
    exact exec_writeRow_answers row writable _
  · have readOnly : ∀ i, WriteRow s.uart.dlab a n v i → i.readOnly = true := fun i row =>
      Bool.eq_true_of_not_eq_false fun writable => h ⟨i, row, writable⟩
    exact .inr ⟨readOnly, step_write_of_readOnly s rest a n v readOnly⟩

/-- Settles O9: an access that selects a row which is not the fault answers a value or done. -/
theorem anAccessFaultChangesNoState : Obligations.AnAccessFaultChangesNoState := by
  intro s t r rest a n v htrace access hstep hfault
  rw [← State.eq_of_trace htrace] at hstep
  rcases access with rfl | rfl
  · rcases step_read_cases s rest a n with ⟨-, u, hu, x, value, -⟩ | ⟨-, fault⟩
    · rw [hstep] at hu; cases hu; rw [hfault] at value; cases value
    · rw [hstep] at fault; cases fault; rfl
  · rcases step_write_cases s rest a n v with ⟨-, u, hu, done⟩ | ⟨-, fault⟩
    · rw [hstep] at hu; cases hu; rw [hfault] at done; cases done
    · rw [hstep] at fault; cases fault; rfl

/-- A READ faults exactly when no row is selected at its address and size, at any DLAB. -/
theorem step_read_fault_iff {s t : State} {rest : List Request} {a n : Nat}
    (h : step { s with trace := .read a n :: rest } = .next t) :
    t.resp = .accessFault ↔ ∀ dlab i, ¬ ReadRow dlab a n i := by
  rcases step_read_cases s rest a n with ⟨⟨i, row⟩, u, hu, x, value, -⟩ | ⟨noRow, fault⟩
  · rw [h] at hu
    cases hu
    exact ⟨fun e => (nomatch e.symm.trans value), fun noRow => absurd row (noRow _ i)⟩
  · rw [h] at fault
    cases fault
    refine ⟨fun _ dlab i row => ?_, fun _ => rfl⟩
    obtain ⟨j, row'⟩ := row.any s.uart.dlab
    exact noRow j row'

/-- A WRITE faults exactly when every row selected at its address and size, at any DLAB and value, is the fault. -/
theorem step_write_fault_iff {s t : State} {rest : List Request} {a n : Nat} {v : Carrier}
    (h : step { s with trace := .write a n v :: rest } = .next t) :
    t.resp = .accessFault ↔ ∀ dlab v' i, WriteRow dlab a n v' i → i.readOnly = true := by
  rcases step_write_cases s rest a n v with ⟨⟨i, row, writable⟩, u, hu, done⟩ | ⟨readOnly, fault⟩
  · rw [h] at hu
    cases hu
    refine ⟨fun e => (nomatch e.symm.trans done), fun all => ?_⟩
    rw [all _ v i row] at writable
    cases writable
  · rw [h] at fault
    cases fault
    refine ⟨fun _ dlab v' i row => ?_, fun _ => rfl⟩
    obtain ⟨j, row', same⟩ := row.any s.uart.dlab v
    rw [← same, readOnly j row']

/-- Settles O10: both states' answers are tied to the one register map. -/
theorem theFaultDependsOnTheAccessAlone : Obligations.TheFaultDependsOnTheAccessAlone :=
  ⟨fun _ _ _ _ _ _ _ _ h h' => (step_read_fault_iff h).trans (step_read_fault_iff h').symm,
    fun _ _ _ _ _ _ _ _ _ _ h h' => (step_write_fault_iff h).trans (step_write_fault_iff h').symm⟩

/-- Settles O13. -/
theorem readValuesFitTheirWidth : Obligations.ReadValuesFitTheirWidth := by
  intro s t rest a n v hstep hv
  rcases step_read_cases s rest a n with ⟨-, u, hu, x, value, bound⟩ | ⟨-, fault⟩
  · rw [hstep] at hu; cases hu; rw [hv] at value; cases value; exact bound
  · rw [hstep] at fault; cases fault; cases hv

end Sys2Proof.Machine
end

section
/-!
PROOFS. The PLIC (41_plic.md section 1; 40_bus_memory.md R133, R134): the arbitration's scan, claim and completion, the
drain of a collector without collisions, and the registers written.
-/
namespace Sys2Proof.Machine

/-! ### The arbitration (R160) -/

theorem Plic.eligible_iff (p : Plic) (c : Context) (i : Nat) :
    p.Eligible c i ↔
      1 ≤ i ∧ i < Config.nSrc ∧ p.candidate c i = true ∧ (p.ctx c).thr < p.prioOf i := by
  simp only [Plic.Eligible, Plic.candidate, Bool.and_eq_true, Bool.not_eq_true', and_assoc]

/-- The priority a further source has to beat when `id` is the best so far. -/
def Plic.toBeat (p : Plic) (c : Context) (id : Nat) : Word :=
  if id = 0 then (p.ctx c).thr else p.prioOf id

/-- `id` is what `best` answers among the sources below `m`: the least of the greatest priority, or 0. -/
def Plic.BestBelow (p : Plic) (c : Context) (m id : Nat) : Prop :=
  (id = 0 ∧ ∀ i < m, ¬ p.Eligible c i) ∨
  (id < m ∧ p.Eligible c id ∧ ∀ j < m, p.Eligible c j →
    p.prioOf j < p.prioOf id ∨ (p.prioOf j = p.prioOf id ∧ id ≤ j))

section Scan
variable {p : Plic} {c : Context} {m id : Nat}

theorem Plic.toBeat_of_eligible (h : p.Eligible c id) : p.toBeat c id = p.prioOf id :=
  if_neg (by have := h.1; omega)

/-- The scan meets a candidate above the priority to beat: it is the best so far. -/
theorem Plic.bestBelow_taken (best : p.BestBelow c m id) (pos : 1 ≤ m) (lt : m < Config.nSrc)
    (cand : p.candidate c m = true) (beats : p.toBeat c id < p.prioOf m) : p.BestBelow c (m + 1) m := by
  rcases best with ⟨rfl, noneBelow⟩ | ⟨-, el, above⟩
  · refine .inr ⟨m.lt_succ_self, (p.eligible_iff c m).mpr ⟨pos, lt, cand, beats⟩, fun j hj elj => ?_⟩
    rcases Nat.lt_succ_iff_lt_or_eq.mp hj with below | rfl
    · exact absurd elj (noneBelow j below)
    · exact .inr ⟨rfl, le_rfl⟩
  · rw [Plic.toBeat_of_eligible el] at beats
    have overThreshold := ((p.eligible_iff c id).mp el).2.2.2
    refine .inr ⟨m.lt_succ_self, (p.eligible_iff c m).mpr ⟨pos, lt, cand, BitVec.lt_trans overThreshold beats⟩,
      fun j hj elj => ?_⟩
    rcases Nat.lt_succ_iff_lt_or_eq.mp hj with below | rfl
    · rcases above j below elj with less | ⟨same, -⟩
      · exact .inl (BitVec.lt_trans less beats)
      · exact .inl (same ▸ beats)
    · exact .inr ⟨rfl, le_rfl⟩

/-- The scan meets no such candidate: the best so far stays. -/
theorem Plic.bestBelow_kept (best : p.BestBelow c m id)
    (no : ¬ (p.candidate c m = true ∧ p.toBeat c id < p.prioOf m)) : p.BestBelow c (m + 1) id := by
  rcases best with ⟨rfl, noneBelow⟩ | ⟨hid, el, above⟩
  · refine .inl ⟨rfl, fun j hj elj => ?_⟩
    rcases Nat.lt_succ_iff_lt_or_eq.mp hj with below | rfl
    · exact noneBelow j below elj
    · obtain ⟨-, -, cand, higher⟩ := (p.eligible_iff c j).mp elj
      exact no ⟨cand, higher⟩
  · refine .inr ⟨by omega, el, fun j hj elj => ?_⟩
    rcases Nat.lt_succ_iff_lt_or_eq.mp hj with below | rfl
    · exact above j below elj
    · obtain ⟨-, -, cand, -⟩ := (p.eligible_iff c j).mp elj
      rw [Plic.toBeat_of_eligible el] at no
      have notAbove : p.prioOf j ≤ p.prioOf id := BitVec.not_lt.mp fun higher => no ⟨cand, higher⟩
      rcases eq_or_ne (p.prioOf j) (p.prioOf id) with same | differ
      · exact .inr ⟨same, hid.le⟩
      · exact .inl (BitVec.lt_of_le_ne notAbove differ)

/-- The scan over the `n` highest source-ids keeps the best so far. -/
theorem Plic.scan_bestBelow (n : Nat) (hn : n < Config.nSrc) (best : p.BestBelow c (Config.nSrc - n) id) :
    p.BestBelow c Config.nSrc (p.scan c n id (p.toBeat c id)) := by
  induction n generalizing id with
  | zero => exact best
  | succ n ih =>
    rw [show Config.nSrc - (n + 1) = Config.nSrc - 1 - n by omega] at best
    have next : Config.nSrc - n = Config.nSrc - 1 - n + 1 := by omega
    unfold Plic.scan
    split
    · rename_i taken
      obtain ⟨cand, beats⟩ := Bool.and_eq_true_iff.mp taken
      have best' := Plic.bestBelow_taken best (by omega) (by omega) cand (BitVec.ult_iff_lt.mp beats)
      rw [← next] at best'
      rw [← show p.toBeat c (Config.nSrc - 1 - n) = p.prioOf (Config.nSrc - 1 - n) from if_neg (by omega)]
      exact ih (by omega) best'
    · rename_i kept
      refine ih (by omega) (next ▸ Plic.bestBelow_kept best fun ⟨cand, beats⟩ => kept ?_)
      exact Bool.and_eq_true_iff.mpr ⟨cand, BitVec.ult_iff_lt.mpr beats⟩

end Scan

/-- `best` is the least source-id of the greatest priority among the eligible sources, or 0 (R160). -/
theorem Plic.best_spec (p : Plic) (c : Context) : p.BestBelow c Config.nSrc (p.best c) :=
  Plic.scan_bestBelow (Config.nSrc - 1) (by decide)
    (.inl ⟨rfl, fun i hi el => by have := el.1; omega⟩)

theorem Plic.best_ne_zero_iff (p : Plic) (c : Context) : p.best c ≠ 0 ↔ ∃ i, p.Eligible c i := by
  rcases p.best_spec c with ⟨zero, noneBelow⟩ | ⟨-, el, -⟩
  · exact ⟨fun h => absurd zero h, fun ⟨i, el⟩ => absurd el (noneBelow i el.2.1)⟩
  · exact ⟨fun _ => ⟨_, el⟩, fun _ => by have := el.1; omega⟩

theorem exec_plicBest (c : Context) (s : State) :
    exec (.plicBest c) s = .next (s.respond (.source (s.plic.best c))) := rfl

/-- Settles O29: the scan's invariant at the scan's end. -/
theorem bestIsTheLeastOfTheGreatestPriority : Obligations.BestIsTheLeastOfTheGreatestPriority := by
  intro s c
  refine ⟨_, exec_plicBest c s, ?_⟩
  rcases s.plic.best_spec c with ⟨zero, noneBelow⟩ | ⟨-, el, above⟩
  · exact .inl ⟨zero, fun i el => noneBelow i el.2.1 el⟩
  · exact .inr ⟨el, fun j elj => above j elj.2.1 elj⟩

/-! ### POLL, claim and completion -/

theorem exec_poll (s : State) : exec .poll s =
    .next ((s.withPlic s.plic.checkInterrupt.2).respond (.level s.plic.checkInterrupt.1)) := rfl

/-- POLL with the update flag clear answers None and changes nothing (40_bus_memory.md R134). -/
theorem exec_poll_of_low (s : State) (h : s.plic.upd = false) :
    exec .poll s = .next (s.respond (.level none)) := by
  rcases s.plic.checkInterrupt_cases with ⟨raised, -⟩ | ⟨-, e⟩
  · rw [h] at raised; cases raised
  · rw [exec_poll, e]; rfl

/-- POLL with the update flag set answers the level and clears it (40_bus_memory.md R134). -/
theorem exec_poll_of_raised (s : State) (h : s.plic.upd = true) : exec .poll s =
    .next ((s.withPlic (s.plic.setUpd false)).respond (.level (some (s.plic.best .machine != 0)))) := by
  rcases s.plic.checkInterrupt_cases with ⟨-, e⟩ | ⟨low, -⟩
  · rw [exec_poll, e]
  · rw [h] at low; cases low

/-- Settles O17: the level is whether context 0 has a best source. -/
theorem pollReportsWhetherContextZeroHasAnEligibleSource :
    Obligations.PollReportsWhetherContextZeroHasAnEligibleSource := by
  intro s
  refine ⟨fun raised => ⟨_, _, exec_poll_of_raised s raised, rfl, ?level, exec_poll_of_low _ rfl⟩,
    exec_poll_of_low s⟩
  case level => rw [bne_iff_ne, s.plic.best_ne_zero_iff]

/-- Settles O30: the two cases of a claim. -/
theorem aClaimTakesTheBestSource : Obligations.AClaimTakesTheBestSource := by
  intro s c
  refine ⟨s.plic.best c, _, exec_plicClaim c s, exec_plicBest c s, fun zero => ?none, fun some => ?taken⟩
  all_goals rcases s.plic.claim_cases c with ⟨zero', e⟩ | ⟨pos, lt, cand, e⟩
  case none.inl => rw [e, zero]; rfl
  case none.inr => omega
  case taken.inl => exact absurd zero' some
  case taken.inr =>
    simp only [Plic.candidate, Bool.and_eq_true] at cand
    obtain ⟨⟨-, pending⟩, -⟩ := cand
    refine ⟨Nat.le_of_lt_succ lt, pending, _, _, by rw [e]; rfl, fun j hj => ?_, fun j hj => ?_⟩
    · exact setBit_getLsbD _ _ _ j hj
    · exact setBit_getLsbD _ _ _ j hj

/-- A completion changes one context's claimed bits (R164). -/
theorem Plic.complete_eq (p : Plic) (c : Context) (v : Word) : p.complete c v =
    p.withCtx c { p.ctx c with claimed := ((p.complete c v).ctx c).claimed } := by
  rcases p.complete_cases c v with ⟨-, e⟩ | ⟨-, e⟩ <;> rw [e]
  · rw [Plic.withCtx_ctx_same]
  · exact (p.withCtx_self c).symm

/-- The claimed bits after a completion (R164, D17). -/
theorem Plic.complete_claimed (p : Plic) (c : Context) (v : Word) (j : Nat) (hj : j < Config.nSrc) :
    ((p.complete c v).ctx c).claimed.getLsbD j =
      if j = v.toNat then false else (p.ctx c).claimed.getLsbD j := by
  rcases p.complete_cases c v with ⟨-, e⟩ | ⟨above, e⟩ <;> rw [e]
  · rw [Plic.withCtx_ctx_same]
    exact setBit_getLsbD _ _ _ j hj
  · rw [if_neg (by omega)]

theorem exec_plicComplete (c : Context) (v : Word) (s : State) :
    exec (.plicComplete c v) s = .next ((s.withPlic (s.plic.complete c v)).respond .nothing) := rfl

theorem exec_plicCompleteW (c : Context) (v : Word) (s : State) :
    exec (.plicCompleteW c v) s = .next ((s.withPlic (s.plic.complete c v)).respond .done) := rfl

/-- Settles O32. -/
theorem aCompletionReleasesItsSourceAlone : Obligations.ACompletionReleasesItsSourceAlone := by
  intro s c v
  refine ⟨((s.plic.complete c v).ctx c).claimed, ?_, ?_, fun j hj => s.plic.complete_claimed c v j hj⟩
  · rw [exec_plicComplete, s.plic.complete_eq c v, Plic.withCtx_ctx_same]; rfl
  · rw [exec_plicCompleteW, s.plic.complete_eq c v, Plic.withCtx_ctx_same]; rfl

/-! ### The drain (40_bus_memory.md R133) -/

theorem nodup_of_noCollision {col : List IrqEvent} (h : noCollision col = true) :
    (col.map (·.source)).Nodup := of_decide_eq_true h

section Drain
variable (p : Plic) (col : List IrqEvent)

/-- A drain changes the pending bits and the update flag alone. -/
theorem Plic.drain_frame : p.drain col = { p with pend := (p.drain col).pend, upd := (p.drain col).upd } := by
  have prio := p.drain_prio col
  have m := p.drain_m col
  have s := p.drain_s col
  generalize p.drain col = q at prio m s
  cases q
  subst prio m s
  rfl

/-- A source without an event keeps its pending bit. -/
theorem Plic.drain_pend_of_notMem (j : Nat) (hj : j < Config.nSrc) (h : ∀ e ∈ col, e.source.val ≠ j) :
    (p.drain col).pend.getLsbD j = p.pend.getLsbD j := by
  induction col with
  | nil => rfl
  | cons e t ih =>
    rw [Plic.drain_cons, Plic.irq_pend _ _ _ j hj, if_neg (h e List.mem_cons_self).symm,
      ih fun e' he' => h e' (List.mem_cons_of_mem e he')]

/-- In a collector without collisions the head's source has no other event. -/
theorem source_ne_of_nodup {e : IrqEvent} {t : List IrqEvent} (h : ((e :: t).map (·.source)).Nodup)
    (e' : IrqEvent) (he' : e' ∈ t) : e'.source.val ≠ e.source.val := fun same =>
  (List.nodup_cons.mp h).1 (List.mem_map.mpr ⟨e', he', Fin.ext same⟩)

variable (hcol : (col.map (·.source)).Nodup)
include hcol

/-- The pending bit of a source with an event is the event's level. -/
theorem Plic.drain_pend_of_mem (e : IrqEvent) (he : e ∈ col) :
    (p.drain col).pend.getLsbD e.source.val = e.level := by
  induction col with
  | nil => cases he
  | cons e' t ih =>
    rw [Plic.drain_cons, Plic.irq_pend _ _ _ _ e.source.isLt]
    rcases List.mem_cons.mp he with rfl | later
    · exact if_pos rfl
    · rw [if_neg (source_ne_of_nodup hcol e later), ih (List.nodup_cons.mp hcol).2 later]

/-- The update flag after a drain, by the events that differ from the pending bits before it. -/
theorem Plic.drain_upd_iff : (p.drain col).upd = true ↔
    p.upd = true ∨ ∃ e ∈ col, p.pend.getLsbD e.source.val ≠ e.level := by
  induction col with
  | nil => simp
  | cons e t ih =>
    have same := p.drain_pend_of_notMem t _ e.source.isLt (source_ne_of_nodup hcol)
    rw [Plic.drain_cons, Plic.irq_spec, same]
    simp only [Bool.or_eq_true, decide_eq_true_eq, ih (List.nodup_cons.mp hcol).2, List.mem_cons,
      exists_eq_or_imp]
    rw [or_assoc, or_comm (a := ∃ e ∈ t, _)]

/-- The pending bits change exactly if an event differs from one of them. -/
theorem Plic.drain_pend_ne_iff : (p.drain col).pend ≠ p.pend ↔
    ∃ e ∈ col, p.pend.getLsbD e.source.val ≠ e.level := by
  constructor
  · intro changed
    by_contra agree
    push Not at agree
    refine changed (BitVec.eq_of_getLsbD_eq fun j hj => ?_)
    by_cases event : ∃ e ∈ col, e.source.val = j
    · obtain ⟨e, he, rfl⟩ := event
      rw [p.drain_pend_of_mem col hcol e he, agree e he]
    · push Not at event
      exact p.drain_pend_of_notMem col j hj event
  · rintro ⟨e, he, differs⟩ same
    rw [← same, p.drain_pend_of_mem col hcol e he] at differs
    exact differs rfl

/-- The update flag is set after a drain exactly if it was or a pending bit changed. -/
theorem Plic.drain_upd_iff_changed : (p.drain col).upd = true ↔
    p.upd = true ∨ (p.drain col).pend ≠ p.pend := by
  rw [p.drain_upd_iff col hcol, p.drain_pend_ne_iff col hcol]

/-- The order of a collector without collisions does not matter (D10). -/
theorem Plic.drain_perm (col' : List IrqEvent) (perm : col'.Perm col) : p.drain col' = p.drain col := by
  have hcol' : (col'.map (·.source)).Nodup := (perm.map _).nodup_iff.mpr hcol
  have pend : (p.drain col').pend = (p.drain col).pend := by
    refine BitVec.eq_of_getLsbD_eq fun j hj => ?_
    by_cases event : ∃ e ∈ col, e.source.val = j
    · obtain ⟨e, he, rfl⟩ := event
      rw [p.drain_pend_of_mem col hcol e he, p.drain_pend_of_mem col' hcol' e (perm.mem_iff.mpr he)]
    · push Not at event
      rw [p.drain_pend_of_notMem col j hj event,
        p.drain_pend_of_notMem col' j hj fun e he => event e (perm.mem_iff.mp he)]
  have upd : (p.drain col').upd = (p.drain col).upd := by
    rw [Bool.eq_iff_iff, p.drain_upd_iff_changed col' hcol', p.drain_upd_iff_changed col hcol, pend]
  rw [p.drain_frame col', p.drain_frame col, pend, upd]

end Drain

theorem exec_busDrain (col : List IrqEvent) (s : State) :
    exec (.busDrain col) s = .next ((s.withPlic (s.plic.drain col)).respond .nothing) := rfl

/-- Settles O18. -/
theorem theDrainSetsEachCollectedSource : Obligations.TheDrainSetsEachCollectedSource := by
  intro s col distinct
  have hcol := nodup_of_noCollision distinct
  refine ⟨_, exec_busDrain col s, ?frame, s.plic.drain_pend_of_mem col hcol,
    fun j hj => s.plic.drain_pend_of_notMem col j hj, s.plic.drain_upd_iff_changed col hcol,
    fun col' perm => ?order⟩
  case frame => rw [s.plic.drain_frame col]; rfl
  case order => rw [exec_busDrain, s.plic.drain_perm col hcol col' perm]

/-! ### The registers -/

/-- Settles O25. -/
theorem aPriorityWriteChangesThatPriorityAlone : Obligations.APriorityWriteChangesThatPriorityAlone := by
  refine ⟨fun s i v hi => ⟨(s.plic.setPrio i.val v).prio, ?write, fun j => ?read⟩, fun s v => ⟨rfl, rfl⟩⟩
  case write => rw [exec_plicPrioW i v hi, s.plic.setPrio_frame i.val v]; rfl
  case read =>
    rw [← s.plic.setPrio_frame i.val v]
    exact s.plic.setPrio_prioOf i.val j v (Fin.pos_iff_ne_zero.mpr hi) i.isLt

/-- A word of a bitmap in the carrier: 32 bits, source `32w + j` at bit `j` (30_encoding.md R105). -/
theorem zext_bitmapWord (b : Bitmap) (w : Nat) : (zext (bitmapWord b w)).toNat < 2 ^ 32 ∧
    ∀ j < 32, (zext (bitmapWord b w)).getLsbD j = b.getLsbD (32 * w + j) := by
  refine ⟨?_, fun j hj => ?_⟩
  · rw [zext_toNat _ (by decide)]
    exact BitVec.isLt _
  · rw [zext, BitVec.getLsbD_setWidth, bitmapWord_getLsbD b w j hj, decide_eq_true (by omega), Bool.true_and]

theorem exec_plicPendR (w : Fin 32) (s : State) :
    exec (.plicPendR w) s = .next (s.respond (.value (zext (bitmapWord s.plic.pend w.val)))) := rfl

theorem exec_plicEnR (c : Context) (w : Fin 32) (s : State) :
    exec (.plicEnR c w) s = .next (s.respond (.value (zext (bitmapWord (s.plic.ctx c).en w.val)))) := rfl

theorem exec_plicEnW (c : Context) (w : Fin 32) (v : Word) (s : State) :
    exec (.plicEnW c w v) s = .next ((s.withPlic (s.plic.withCtx c
      { s.plic.ctx c with en := setBitmapWord (s.plic.ctx c).en w.val v })).respond .done) := rfl

theorem exec_plicThrW (c : Context) (v : Word) (s : State) : exec (.plicThrW c v) s =
    .next ((s.withPlic (s.plic.withCtx c { s.plic.ctx c with thr := v })).respond .done) := rfl

/-- Settles O26. -/
theorem pendingWordsShowThePendingBits : Obligations.PendingWordsShowThePendingBits :=
  fun s w => ⟨_, exec_plicPendR w s, zext_bitmapWord s.plic.pend w.val⟩

/-- Settles O27. -/
theorem enableWordsAreReadAndReplacedWhole : Obligations.EnableWordsAreReadAndReplacedWhole :=
  ⟨fun s c w => ⟨_, exec_plicEnR c w s, zext_bitmapWord (s.plic.ctx c).en w.val⟩,
    fun s c w v => ⟨_, exec_plicEnW c w v s, fun i hi => setBitmapWord_getLsbD _ w.val v i hi⟩⟩

/-- Settles O28. -/
theorem aThresholdWriteReadsBack : Obligations.AThresholdWriteReadsBack := by
  intro s c v
  refine ⟨_, exec_plicThrW c v s, rfl, ?_⟩
  rw [exec_plicThrR, State.respond_plic, State.withPlic_plic, Plic.withCtx_ctx_same]
  rfl

end Sys2Proof.Machine
end

section
/-!
PROOFS. The UART's registers and its clock rule (42_uart.md R201 to R221), bit by bit.
-/
namespace Sys2Proof.Machine

/-! ### The registers read and written -/

/-- Settles O37: the offsets 2 to 7 select one row at either DLAB, and each row answers its register. -/
theorem controlAndStatusReadsHaveNoSideEffect : Obligations.ControlAndStatusReadsHaveNoSideEffect :=
  fun _ dlab => ⟨decode_encode_uartRead dlab 2, rfl, decode_encode_uartRead dlab 3, rfl,
    decode_encode_uartRead dlab 4, rfl, decode_encode_uartRead dlab 5, rfl,
    decode_encode_uartRead dlab 6, rfl, decode_encode_uartRead dlab 7, rfl⟩

/-- Settles O39: the three read-only rows. -/
theorem writesToReadOnlyRegistersFault : Obligations.WritesToReadOnlyRegistersFault := fun s =>
  ⟨fun w v => exec_of_readOnly (.plicPendW w v) rfl s, fun v => exec_of_readOnly (.uartLsrW v) rfl s,
    fun v => exec_of_readOnly (.uartMsrW v) rfl s⟩

/-- The bits that exist in the interrupt-enable register (10_state.md R33). -/
theorem uartIerMask_getLsbD : ∀ j < 8, Config.uartIerMask.getLsbD j = decide (j < 4) := by decide

/-- The bits that exist in the modem-control register (10_state.md R35). -/
theorem uartMcrMask_getLsbD : ∀ j < 8, Config.uartMcrMask.getLsbD j = decide (j < 5) := by decide

/-- Settles O38. -/
theorem uartRegisterWritesStoreTheirBits : Obligations.UartRegisterWritesStoreTheirBits := by
  intro s v
  refine ⟨rfl, rfl, rfl, rfl, rfl, ⟨v &&& Config.uartIerMask, rfl, fun j hj => ?_⟩,
    v &&& Config.uartMcrMask, rfl, fun j hj => ?_⟩
  · rw [BitVec.getLsbD_and, uartIerMask_getLsbD j hj, Bool.and_comm]
  · rw [BitVec.getLsbD_and, uartMcrMask_getLsbD j hj, Bool.and_comm]

/-! ### The data register -/

theorem exec_uartRbrR (s : State) : exec .uartRbrR s =
    .next ((s.withUart s.uart.readData.2).respond (.value (zext s.uart.readData.1))) := rfl

theorem exec_uartThrW (v : Byte) (s : State) :
    exec (.uartThrW v) s = .next ((s.withUart (s.uart.writeData v)).respond .done) := rfl

/-- On a break or an empty queue the data-register read answers 0 and changes nothing (R201). -/
theorem Uart.readData_of_nothing (u : Uart) (h : u.bi = true ∨ u.rxq = []) : u.readData = (0#8, u) := by
  rcases u.readData_cases with ⟨-, e⟩ | ⟨b, rest, noBreak, queue, -⟩
  · exact e
  · rcases h with brk | empty
    · rw [noBreak] at brk; cases brk
    · rw [queue] at empty; cases empty

section ReadData
variable {u : Uart} {b : Byte} {rest : List Byte} (noBreak : u.bi = false) (queue : u.rxq = b :: rest)
include noBreak queue

/-- Otherwise it pops the head; of the registers only line status can change (R201). -/
theorem Uart.readData_of_byte : u.readData = (b, { u with rxq := rest, lsr := u.readData.2.lsr }) := by
  rcases u.readData_cases with ⟨brk | empty, -⟩ | ⟨b', rest', -, queue', e⟩
  · rw [noBreak] at brk; cases brk
  · rw [queue] at empty; cases empty
  · rw [queue] at queue'
    cases queue'
    rw [e]
    split <;> rfl

/-- The line-status bits after it: `OE` clear, `DR` clear under the parameter (R201, D26). -/
theorem Uart.readData_lsr (j : Nat) (hj : j < 8) : u.readData.2.lsr.getLsbD j =
    if j = 1 then false
    else if j = 0 then u.dr && !(Config.uartRbrClearsDr && rest.isEmpty) else u.lsr.getLsbD j := by
  rcases u.readData_cases with ⟨brk | empty, -⟩ | ⟨b', rest', -, queue', e⟩
  · rw [noBreak] at brk; cases brk
  · rw [queue] at empty; cases empty
  · rw [queue] at queue'
    cases queue'
    rw [e]
    cases Config.uartRbrClearsDr && rest.isEmpty
    · show (setBit u.lsr 1 false).getLsbD j = _
      rw [setBit_getLsbD _ _ _ j hj]
      by_cases h0 : j = 0
      · subst h0; exact (Bool.and_true _).symm
      · simp only [if_neg h0]
    · show (setBit (setBit u.lsr 1 false) 0 false).getLsbD j = _
      rw [setBit_getLsbD _ _ _ j hj, setBit_getLsbD _ _ _ j hj]
      by_cases h0 : j = 0
      · subst h0; exact (Bool.and_false _).symm
      · simp only [if_neg h0]

end ReadData

/-- Settles O40: the two cases of the data-register read. -/
theorem theDataRegisterReadPopsAndClearsOverrun : Obligations.TheDataRegisterReadPopsAndClearsOverrun := by
  intro s
  refine ⟨fun nothing => ?_, fun b rest noBreak queue => ⟨s.uart.readData.2.lsr, ?_, ?_, ?_, fun j h2 h8 => ?_⟩⟩
  · rw [exec_uartRbrR, s.uart.readData_of_nothing nothing]; rfl
  · rw [exec_uartRbrR, Uart.readData_of_byte noBreak queue]; rfl
  · exact Uart.readData_lsr noBreak queue 1 (by decide)
  · exact Uart.readData_lsr noBreak queue 0 (by decide)
  · rw [Uart.readData_lsr noBreak queue j h8, if_neg (by omega), if_neg (by omega)]

/-- The line-status bits of a ready transmitter: `TEMT` and `THRE` set (R203). -/
theorem Uart.setTxReady_getLsbD (u : Uart) (j : Nat) (hj : j < 8) :
    u.setTxReady.lsr.getLsbD j = if j = 5 ∨ j = 6 then true else u.lsr.getLsbD j := by
  rw [Uart.setTxReady_lsr, setBit_getLsbD _ _ _ j hj, setBit_getLsbD _ _ _ j hj]
  by_cases h5 : j = 5
  · simp [h5]
  · simp [h5]

/-- A write of the data register with FIFOs disabled and `DR` set drops the byte (R203). -/
theorem Uart.writeData_of_dropped (u : Uart) (v : Byte) (h : u.fen = false ∧ u.dr = true) :
    u.writeData v = u.setOe true := by
  rw [Uart.writeData, h.1, h.2]; rfl

/-- In loopback a byte that is not dropped goes to the receive queue (R203). -/
theorem Uart.writeData_of_loop (u : Uart) (v : Byte) (kept : u.fen = true ∨ u.dr = false)
    (loop : u.loop = true) : u.writeData v = u.setTxReady.receive v := by
  rcases kept with h | h <;> simp [Uart.writeData, h, loop]

/-- Without loopback a byte that is not dropped goes to the transmitted stream (R203). -/
theorem Uart.writeData_of_send (u : Uart) (v : Byte) (kept : u.fen = true ∨ u.dr = false)
    (noLoop : u.loop = false) : u.writeData v = u.setTxReady.sendOut v := by
  rcases kept with h | h <;> simp [Uart.writeData, h, noLoop]

/-- A byte that is not dropped leaves the transmitter ready, looped back or sent. -/
theorem Uart.writeData_lsr_of_kept (u : Uart) (v : Byte) (kept : u.fen = true ∨ u.dr = false) :
    (u.writeData v).lsr = u.setTxReady.lsr := by
  cases loop : u.loop
  · rw [u.writeData_of_send v kept loop]; rfl
  · rw [u.writeData_of_loop v kept loop]; rfl

/-- Settles O41: the three cases of the data-register write. -/
theorem theDataRegisterWriteDropsLoopsOrSends : Obligations.TheDataRegisterWriteDropsLoopsOrSends := by
  intro s v
  rw [exec_uartThrW]
  refine ⟨(s.uart.writeData v).lsr, fun dropped => ⟨?_, fun j hj => ?_⟩,
    fun kept => ⟨fun loop => ?_, fun noLoop => ?_, fun j hj => ?_⟩⟩
  · rw [s.uart.writeData_of_dropped v dropped]; rfl
  · rw [s.uart.writeData_of_dropped v dropped]; exact setBit_getLsbD _ 1 true j hj
  · rw [s.uart.writeData_of_loop v kept loop]; rfl
  · rw [s.uart.writeData_of_send v kept noLoop]; rfl
  · rw [s.uart.writeData_lsr_of_kept v kept]; exact s.uart.setTxReady_getLsbD j hj

/-- Settles O42: the looped byte is the only one in the queue, and the break bit is as before. -/
theorem loopbackReturnsTheByteAndSendsNothing : Obligations.LoopbackReturnsTheByteAndSendsNothing := by
  intro s v loop kept empty noBreak
  have queue : (s.uart.setTxReady.receive v).rxq = v :: [] := by
    rw [Uart.receive_rxq, Uart.setTxReady_rxq, empty]; rfl
  have noBreak' : (s.uart.setTxReady.receive v).bi = false := by
    rw [← noBreak]; exact s.uart.setTxReady_getLsbD 4 (by decide)
  have write : exec (.uartThrW v) s =
      .next ((s.withUart (s.uart.setTxReady.receive v)).respond .done) := by
    rw [exec_uartThrW, s.uart.writeData_of_loop v kept loop]
  have read := Uart.readData_of_byte noBreak' queue
  exact ⟨_, _, write, rfl, exec_uartRbrR _, congrArg (fun r : Byte × Uart => Response.value (zext r.1)) read,
    congrArg (fun r : Byte × Uart => r.2.txq) read, congrArg (fun r : Byte × Uart => r.2.rxq) read⟩

/-! ### The clock rule (R221), step by step -/

theorem Uart.clkDataReady_lsr (u : Uart) (j : Nat) (hj : j < 8) :
    u.clkDataReady.lsr.getLsbD j = if j = 0 then u.dr || !u.rxq.isEmpty else u.lsr.getLsbD j := by
  unfold Uart.clkDataReady
  cases u.rxq.isEmpty
  · rw [if_neg (by decide), Uart.setDr_lsr, setBit_getLsbD _ _ _ j hj, Bool.not_false, Bool.or_true]
  · rw [if_pos rfl, Bool.not_true, Bool.or_false]
    split_ifs with h
    · rw [h]; rfl
    · rfl

theorem Uart.clkClearRx_lsr (u : Uart) (j : Nat) (hj : j < 8) :
    u.clkClearRx.lsr.getLsbD j = if j = 0 then !u.clrRx && u.dr else u.lsr.getLsbD j := by
  unfold Uart.clkClearRx
  cases u.clrRx
  · rw [if_neg (by decide), Bool.not_false, Bool.true_and]
    split_ifs with h
    · rw [h]; rfl
    · rfl
  · rw [if_pos rfl, Uart.setClrRx_lsr, Uart.setDr_lsr, setBit_getLsbD _ _ _ j hj, Bool.not_true,
      Bool.false_and]

theorem Uart.clkClearTx_lsr (u : Uart) (j : Nat) (hj : j < 8) :
    u.clkClearTx.lsr.getLsbD j = if j = 5 ∨ j = 6 then u.lsr.getLsbD j || u.clrTx else u.lsr.getLsbD j := by
  unfold Uart.clkClearTx
  cases u.clrTx
  · rw [if_neg (by decide), Bool.or_false, ite_self]
  · rw [if_pos rfl, Uart.setTxReady_getLsbD _ j hj, Bool.or_true, Uart.setClrTx_lsr]

theorem Uart.clkForceReady_lsr (u : Uart) (j : Nat) (hj : j < 8) :
    u.clkForceReady.lsr.getLsbD j = if j = 5 ∨ j = 6 then u.lsr.getLsbD j || !u.etx else u.lsr.getLsbD j := by
  unfold Uart.clkForceReady
  cases u.etx
  · rw [if_neg (by decide), Uart.setTxReady_getLsbD _ j hj, Bool.not_false, Bool.or_true]
  · rw [if_pos rfl, Bool.not_true, Bool.or_false, ite_self]

@[simp] theorem Uart.clkDataReady_lcr (u : Uart) : u.clkDataReady.lcr = u.lcr := by
  unfold Uart.clkDataReady; split <;> rfl
@[simp] theorem Uart.clkDataReady_rxq (u : Uart) : u.clkDataReady.rxq = u.rxq := by
  unfold Uart.clkDataReady; split <;> rfl
@[simp] theorem Uart.clkClearRx_rxq (u : Uart) : u.clkClearRx.rxq = if u.clrRx then [] else u.rxq := by
  unfold Uart.clkClearRx; split <;> rfl
@[simp] theorem Uart.clkClearTx_rxq (u : Uart) : u.clkClearTx.rxq = u.rxq := by
  unfold Uart.clkClearTx; split <;> rfl
@[simp] theorem Uart.clkForceReady_rxq (u : Uart) : u.clkForceReady.rxq = u.rxq := by
  unfold Uart.clkForceReady; split <;> rfl
@[simp] theorem Uart.clkForceReady_lcr (u : Uart) : u.clkForceReady.lcr = u.lcr := by
  unfold Uart.clkForceReady; split <;> rfl

theorem Uart.clkClearRx_lcr (u : Uart) (j : Nat) (hj : j < 8) :
    u.clkClearRx.lcr.getLsbD j = if j = 1 then false else u.lcr.getLsbD j := by
  unfold Uart.clkClearRx
  cases h : u.clrRx
  · rw [if_neg (by decide)]
    split_ifs with h1
    · rw [h1]; exact h
    · rfl
  · rw [if_pos rfl, Uart.setClrRx_lcr, setBit_getLsbD _ _ _ j hj]; rfl

theorem Uart.clkClearTx_lcr (u : Uart) (j : Nat) (hj : j < 8) :
    u.clkClearTx.lcr.getLsbD j = if j = 2 then false else u.lcr.getLsbD j := by
  unfold Uart.clkClearTx
  cases h : u.clrTx
  · rw [if_neg (by decide)]
    split_ifs with h2
    · rw [h2]; exact h
    · rfl
  · rw [if_pos rfl, Uart.setTxReady_lcr, Uart.setClrTx_lcr, setBit_getLsbD _ _ _ j hj]

/-! ### The clock rule, whole -/

/-- The line-status bits as step 4 of R221 finds them. -/
theorem Uart.clkServe_lsr (u : Uart) (j : Nat) (hj : j < 8) : u.clkServe.lsr.getLsbD j =
    if j = 0 then !u.clrRx && (u.dr || !u.rxq.isEmpty)
    else if j = 5 ∨ j = 6 then u.lsr.getLsbD j || u.clrTx else u.lsr.getLsbD j := by
  have clrRx : u.clkDataReady.clrRx = u.clrRx := congrArg (BitVec.getLsbD · 1) u.clkDataReady_lcr
  have clrTx : u.clkDataReady.clkClearRx.clrTx = u.clrTx :=
    (u.clkDataReady.clkClearRx_lcr 2 (by decide)).trans (congrArg (BitVec.getLsbD · 2) u.clkDataReady_lcr)
  have dr : u.clkDataReady.dr = (u.dr || !u.rxq.isEmpty) := u.clkDataReady_lsr 0 (by decide)
  rw [Uart.clkServe, Uart.clkClearTx_lsr _ j hj, Uart.clkClearRx_lsr _ j hj, Uart.clkDataReady_lsr _ j hj,
    clrRx, clrTx, dr]
  by_cases h0 : j = 0
  · subst h0; rfl
  · simp only [if_neg h0]

/-- Data ready as the interrupt conditions find it (R221 steps 1 and 2). -/
theorem Uart.clkServe_dr (u : Uart) : u.clkServe.dr = (!u.clrRx && (u.dr || !u.rxq.isEmpty)) :=
  u.clkServe_lsr 0 (by decide)

/-- `TEMT` as the interrupt conditions find it (R221 step 3). -/
theorem Uart.clkServe_temt (u : Uart) : u.clkServe.temt = (u.temt || u.clrTx) :=
  u.clkServe_lsr 6 (by decide)

theorem Uart.clkServe_rdi (u : Uart) :
    u.clkServe.rdi = (u.erx && (!u.clrRx && (u.dr || !u.rxq.isEmpty))) := by
  rw [Uart.rdi, Uart.clkServe_dr, Uart.erx, Uart.clkServe_ier, Uart.erx]

theorem Uart.clkServe_thri (u : Uart) : u.clkServe.thri = (u.etx && (u.temt || u.clrTx)) := by
  rw [Uart.thri, Uart.clkServe_temt, Uart.etx, Uart.clkServe_ier, Uart.etx]

/-- The line-status bits after a tick (R221). -/
theorem Uart.clk_lsr (u : Uart) (j : Nat) (hj : j < 8) : u.clk.lsr.getLsbD j =
    if j = 0 then !u.clrRx && (u.dr || !u.rxq.isEmpty)
    else if j = 5 ∨ j = 6 then u.lsr.getLsbD j || u.clrTx || !u.etx else u.lsr.getLsbD j := by
  have etx : u.clkServe.clkIdentify.etx = u.etx := congrArg (BitVec.getLsbD · 1) u.clkServe_ier
  rw [Uart.clk, Uart.clkForceReady_lsr _ j hj, etx, Uart.clkIdentify_lsr, Uart.clkServe_lsr u j hj]
  by_cases h0 : j = 0
  · subst h0; rfl
  · simp only [if_neg h0]
    split <;> rfl

/-- A tick sets data ready if the queue holds a byte and no clear is requested (R221). -/
theorem Uart.clk_dr (u : Uart) : u.clk.dr = (!u.clrRx && (u.dr || !u.rxq.isEmpty)) := u.clk_lsr 0 (by decide)

/-- The bits that remain of line control: the two clear requests are served (R221). -/
theorem keepMask_getLsbD : ∀ j < 8, (0xF9#8).getLsbD j = (!decide (j = 1) && !decide (j = 2)) := by decide

theorem Uart.clk_lcr (u : Uart) : u.clk.lcr = u.lcr &&& 0xF9#8 := by
  refine BitVec.eq_of_getLsbD_eq fun j hj => ?_
  rw [BitVec.getLsbD_and, keepMask_getLsbD j hj, Uart.clk, Uart.clkForceReady_lcr, Uart.clkIdentify_lcr,
    Uart.clkServe, Uart.clkClearTx_lcr _ j hj, Uart.clkClearRx_lcr _ j hj, Uart.clkDataReady_lcr]
  by_cases h2 : j = 2
  · simp [h2]
  · by_cases h1 : j = 1
    · simp [h1]
    · simp [h1, h2]

theorem Uart.clk_rxq (u : Uart) : u.clk.rxq = if u.clrRx then [] else u.rxq := by
  have clrRx : u.clkDataReady.clrRx = u.clrRx := congrArg (BitVec.getLsbD · 1) u.clkDataReady_lcr
  rw [Uart.clk, Uart.clkForceReady_rxq, Uart.clkIdentify_rxq, Uart.clkServe, Uart.clkClearTx_rxq,
    Uart.clkClearRx_rxq, Uart.clkDataReady_rxq, clrRx]

/-- What a tick leaves of the UART (R221): four fields are recomputed and every other is as before. -/
theorem Uart.clk_eq (u : Uart) : u.clk = { u with
    lsr := u.clk.lsr
    lcr := u.lcr &&& 0xF9#8
    rxq := if u.clrRx then [] else u.rxq
    iir := u.clkServe.identification } := by
  rw [← u.clk_lcr, ← u.clk_rxq, ← u.clk_iir]
  obtain ⟨ier, mcr, scr, fcr, dll, dlh, txq, printed⟩ := u.clk_frame
  rw [← ier, ← mcr, ← scr, ← fcr, ← dll, ← dlh, ← txq, ← printed]

theorem exec_uartClk (col : List IrqEvent) (s : State) : exec (.uartClk col) s =
    .next ((s.withUart s.uart.clk).respond (.collected (col ++ [s.uart.clkEvent]))) := rfl

/-- Settles O43: the recomputed fields by `Uart.clk_eq` and the line-status bits by `Uart.clk_lsr`. -/
theorem theUartClockServesRequestsAndIdentifies : Obligations.TheUartClockServesRequestsAndIdentifies := by
  intro s col dr temt rdi thri hdr htemt hrdi hthri
  have rdiEq : s.uart.clkServe.rdi = rdi := by rw [Uart.clkServe_rdi, hrdi, hdr]
  have thriEq : s.uart.clkServe.thri = thri := by rw [Uart.clkServe_thri, hthri, htemt]
  refine ⟨s.uart.clk.lsr, ?state, ?dr, ?temt, ?thre, fun j hj h0 h5 h6 => ?others⟩
  case state =>
    rw [exec_uartClk, Uart.clkEvent, Uart.line, rdiEq, thriEq, s.uart.clk_eq, Uart.identification, rdiEq, thriEq]
    cases rdi <;> cases thri <;> rfl
  case dr => rw [hdr]; exact s.uart.clk_dr
  case temt => rw [htemt]; exact s.uart.clk_lsr 6 (by decide)
  case thre => exact s.uart.clk_lsr 5 (by decide)
  case others => rw [s.uart.clk_lsr j hj, if_neg h0, if_neg (by omega)]

end Sys2Proof.Machine
end

section
/-!
PROOFS. The SoC-auxiliary device and the queues (43_soc_aux.md R251 to R258; 44_channel_host.md R281 to R287).
-/
namespace Sys2Proof.Machine

/-! ### The registers of the SoC-auxiliary device -/

/-- Settles O44: both rows draw the clock once. -/
theorem theTimerAnswersAFreshClockValue : Obligations.TheTimerAnswersAFreshClockValue := by
  intro s
  refine ⟨?_, rfl⟩
  rw [show exec .socTimeR s = .next (s.clockDrawn.readAnswer s.wallClock) from rfl, State.readAnswer_eq,
    zext_carrier]
  rfl

/-- Settles O45. -/
theorem theFramebufferPairReadsGeometryAndPresents : Obligations.TheFramebufferPairReadsGeometryAndPresents :=
  fun _ _ => ⟨rfl, rfl⟩

theorem exec_socKbdR (s : State) : exec .socKbdR s =
    .next ((s.withSoc s.soc.readKey.2).respond (.value (zext s.soc.readKey.1))) := rfl

theorem Soc.readKey_of_empty (d : Soc) (h : d.kbd = []) : d.readKey = (0#32, d) := by
  rw [Soc.readKey, h]

theorem Soc.readKey_of_cons (d : Soc) (k : Word) (rest : List Word) (h : d.kbd = k :: rest) :
    d.readKey = (k, { d with kbd := rest }) := by
  rw [Soc.readKey, h]

/-- Settles O46: the two cases of the keyboard read. -/
theorem theKeyboardReadPopsTheHead : Obligations.TheKeyboardReadPopsTheHead := by
  refine fun s => ⟨fun empty => ?_, fun k rest queue => ?_⟩
  · rw [exec_socKbdR, s.soc.readKey_of_empty empty]; rfl
  · rw [exec_socKbdR, s.soc.readKey_of_cons k rest queue]; rfl

theorem exec_socPoweroffW (v : Byte) (s : State) : exec (.socPoweroffW v) s =
    .next ((s.withSoc { s.soc with poff := true }).respond .done) := rfl

/-- What `SOC.clk` leaves of the device (R258): one command sent exactly if the latch was set. -/
theorem Soc.clk_eq (d : Soc) (keys : List Word) : d.clk keys = { d with
    kbd := d.kbd ++ keys
    cmdq := d.cmdq ++ (if d.poff then [.poweroff] else [])
    poff := false } := by
  rcases d.clk_cases keys with ⟨latched, e⟩ | ⟨clear, e⟩ <;> rw [e]
  · simp [latched]
  · simp [clear]

theorem exec_socClk (col : List IrqEvent) (s : State) : exec (.socClk col) s =
    .next { s with soc := s.soc.clk s.hostKeys, hostKeys := [], resp := .collected col } := rfl

/-- Settles O47. -/
theorem poweroffIsLatchedAndSentOnceAtTheTick : Obligations.PoweroffIsLatchedAndSentOnceAtTheTick := by
  refine ⟨fun s v v' => ⟨_, exec_socPoweroffW v s, rfl, exec_socPoweroffW v' _⟩, fun s col => ?_⟩
  rw [exec_socClk, Soc.clk_eq]

/-! ### Pushes and pops -/

/-- Settles O50. -/
theorem pushAppendsAtTheTail : Obligations.PushAppendsAtTheTail :=
  fun _ => ⟨fun _ => rfl, fun _ => rfl, fun _ => rfl, fun _ => rfl⟩

theorem exec_channelPush (v : ChanVal) (s : State) :
    exec (.channelPush v) s = .next ((s.push v).respond .nothing) := rfl

theorem exec_channelPop (q : Queue) (s : State) : exec (.channelPop q) s = .next (s.pop q) := rfl

theorem exec_hostTx (s : State) : exec .hostTx s = .next (s.pop .txq) := rfl

@[simp] theorem State.respond_queue (s : State) (r : Response) (q : Queue) :
    (s.respond r).queue q = s.queue q := by cases q <;> rfl

/-- A pushed value is the last of its queue (R281). -/
theorem State.queue_push (s : State) (v : ChanVal) :
    (s.push v).queue (queueOf v) = s.queue (queueOf v) ++ [v] := by
  cases v with
  | rxq b => exact List.map_append
  | txq b => exact List.map_append
  | kbd k => exact List.map_append
  | cmdq c => exact List.map_append

theorem State.pop_rxq_cons (s : State) (b : Byte) (rest : List Byte) (h : s.uart.rxq = b :: rest) :
    s.pop .rxq = (s.withUart { s.uart with rxq := rest }).respond (.received (.rxq b)) := by
  simp [State.pop, State.queue, State.dropHead, h]

theorem State.pop_txq_cons (s : State) (b : Byte) (rest : List Byte) (h : s.uart.txq = b :: rest) :
    s.pop .txq = (s.withUart { s.uart with txq := rest }).respond (.received (.txq b)) := by
  simp [State.pop, State.queue, State.dropHead, h]

theorem State.pop_kbd_cons (s : State) (k : Word) (rest : List Word) (h : s.soc.kbd = k :: rest) :
    s.pop .kbd = (s.withSoc { s.soc with kbd := rest }).respond (.received (.kbd k)) := by
  simp [State.pop, State.queue, State.dropHead, h]

theorem State.pop_cmdq_cons (s : State) (c : Command) (rest : List Command) (h : s.soc.cmdq = c :: rest) :
    s.pop .cmdq = (s.withSoc { s.soc with cmdq := rest }).respond (.received (.cmdq c)) := by
  rw [s.pop_cons .cmdq _ _ (s.queue_cmdq_cons c rest h), s.dropHead_cmdq_cons c rest h]

/-- A pop whose queue's list is empty waits (R282, R284). -/
theorem exec_channelPop_empty (s : State) (q : Queue) (h : s.queue q = []) :
    exec (.channelPop q) s = .next (s.respond .waits) := by rw [exec_channelPop, s.pop_empty q h]

/-- Settles O55: a pop of each queue, with a value and without. -/
theorem theHostTakesTransmittedBytesInOrder : Obligations.TheHostTakesTransmittedBytesInOrder := by
  intro s
  refine ⟨fun b rest h => ?_, fun h => ?_, fun h => ?_, rfl, rfl, fun b rest h => ?_, fun h => ?_,
    fun k rest h => ?_, fun h => ?_⟩
  · rw [exec_hostTx, s.pop_txq_cons b rest h]; rfl
  · exact exec_channelPop_empty s .txq (List.map_eq_nil_iff.mpr h)
  · exact exec_channelPop_empty s .cmdq (List.map_eq_nil_iff.mpr h)
  · rw [exec_channelPop, s.pop_rxq_cons b rest h]; rfl
  · exact exec_channelPop_empty s .rxq (List.map_eq_nil_iff.mpr h)
  · rw [exec_channelPop, s.pop_kbd_cons k rest h]; rfl
  · exact exec_channelPop_empty s .kbd (List.map_eq_nil_iff.mpr h)

/-! ### Delivery in order -/

theorem answers_cons {i : Instr} {is : List Instr} {s t : State} (h : exec i s = .next t) :
    answers (i :: is) s = t.resp :: answers is t := by
  rw [answers, h]

/-- Pushing the values of one queue answers nothing each time and leaves them at its tail, in order. -/
theorem answers_push (q : Queue) (vs : List ChanVal) (is : List Instr) (s : State)
    (h : ∀ v ∈ vs, queueOf v = q) :
    ∃ t, answers (vs.map Instr.channelPush ++ is) s = List.replicate vs.length .nothing ++ answers is t ∧
      t.queue q = s.queue q ++ vs := by
  induction vs generalizing s with
  | nil => exact ⟨s, rfl, (List.append_nil _).symm⟩
  | cons v vs ih =>
    obtain ⟨t, pushes, queue⟩ := ih ((s.push v).respond .nothing) fun v' hv' => h v' (List.mem_cons_of_mem v hv')
    obtain rfl := h v List.mem_cons_self
    refine ⟨t, (answers_cons (exec_channelPush v s)).trans (congrArg _ pushes), ?_⟩
    rw [queue, State.respond_queue, State.queue_push, List.append_assoc, List.singleton_append]

/-- Popping as often as the queue holds values answers them, head first. -/
theorem answers_pop (q : Queue) (vs : List ChanVal) (s : State) (h : s.queue q = vs) :
    answers (List.replicate vs.length (.channelPop q)) s = vs.map .received := by
  induction vs generalizing s with
  | nil => rfl
  | cons v vs ih =>
    have pop : exec (.channelPop q) s = .next ((s.dropHead q).respond (.received v)) := by
      rw [exec_channelPop, s.pop_cons q v vs h]
    have tail : ((s.dropHead q).respond (.received v)).queue q = vs := by
      rw [State.respond_queue, State.queue_dropHead, h, List.tail_cons]
    exact (answers_cons pop).trans (congrArg _ (ih _ tail))

/-- Settles O51: the pushes, then the pops on the queue they leave. -/
theorem channelsDeliverInOrder : Obligations.ChannelsDeliverInOrder := by
  refine ⟨fun s q vs empty h => ?_, fun s q empty => exec_channelPop_empty s q empty⟩
  obtain ⟨t, pushes, queue⟩ := answers_push q vs (List.replicate vs.length (.channelPop q)) s h
  rw [empty, List.nil_append] at queue
  rw [pushes, answers_pop q vs t queue]

end Sys2Proof.Machine
end

section
/-!
PROOFS. The Bus's clock (40_bus_memory.md R132): a CLK that counts and a driven tick, and what a tick brings of the
host's bytes and key words and of the UART's line.
-/
namespace Sys2Proof.Machine

/-- A CLK that is no driven tick counts (D7). -/
theorem exec_clk_of_counting (s : State) (h : s.bus.div + 1 ≠ 1000) :
    exec .clk s = .next ((s.withBus { div := s.bus.div + 1 }).respond .nothing) := by
  rw [show exec .clk s = .next (s.busClk.respond .nothing) from rfl, State.busClk, if_neg h]

/-- A CLK at divider 999 is a driven tick. -/
theorem exec_clk_of_driven (s : State) (h : s.bus.div + 1 = 1000) :
    exec .clk s = .next ((s.withBus { div := 0 }).drivenTick.respond .nothing) := by
  rw [show exec .clk s = .next (s.busClk.respond .nothing) from rfl, State.busClk, if_pos h]

/-- Settles O14: the driven tick hands its collector through the five operations. -/
theorem everyThousandthClkIsADrivenTick : Obligations.EveryThousandthClkIsADrivenTick :=
  ⟨exec_clk_of_counting, fun s driven => ⟨_, _, _, _, _, _, _, _, _, rfl, rfl, rfl, rfl, rfl, rfl, rfl, rfl, rfl,
    exec_clk_of_driven s driven, rfl⟩, fun _ _ => ⟨rfl, rfl⟩⟩

/-- The interrupt line as the tick emits it, from the state before the tick (42_uart.md R221, R222). -/
theorem Uart.clkServe_line (u : Uart) : u.clkServe.line =
    ((u.erx && (!u.clrRx && (u.dr || !u.rxq.isEmpty))) || (u.etx && (u.temt || u.clrTx))) := by
  rw [Uart.line, Uart.clkServe_rdi, Uart.clkServe_thri]

/-- One event is a collector without collisions. -/
theorem nodup_singleton (e : IrqEvent) : ([e].map (·.source)).Nodup := List.nodup_singleton _

/-- Settles O15: the tick's one event is drained into the PLIC. -/
theorem aDrivenTickDrivesTheUartLineIntoThePlic : Obligations.ADrivenTickDrivesTheUartLineIntoThePlic := by
  intro s driven
  refine ⟨_, exec_clk_of_driven s driven, fun j hj => ?pend, ?upd, ?frame, rfl, rfl, rfl, rfl⟩
  case pend =>
    rw [← s.uart.clkServe_line]
    exact s.plic.irq_pend Config.uartIrq.val s.uart.clkServe.line j hj
  case upd => exact s.plic.drain_upd_iff_changed [s.uart.clkEvent] (nodup_singleton _)
  case frame => exact s.plic.drain_frame [s.uart.clkEvent]

theorem exec_hostRx (b : Byte) (s : State) :
    exec (.hostRx b) s = .next ((s.withUart (s.uart.receive b)).respond .nothing) := rfl

/-- Settles O53: the byte is the head of a queue that was empty, and a queue with a byte makes data ready. -/
theorem aHostByteReachesTheReceiveQueueAtOnce : Obligations.AHostByteReachesTheReceiveQueueAtOnce := by
  intro s b
  refine ⟨_, exec_hostRx b s, rfl, fun empty noBreak => ⟨_, exec_uartRbrR _, ?read⟩,
    fun driven noClear => ⟨_, exec_clk_of_driven _ driven, ?ready⟩⟩
  case read =>
    have queue : (s.uart.receive b).rxq = b :: [] := by rw [Uart.receive_rxq, empty]; rfl
    have pop := Uart.readData_of_byte (u := s.uart.receive b) noBreak queue
    exact congrArg (fun r : Byte × Uart => Response.value (zext r.1)) pop
  case ready =>
    show (s.uart.receive b).clk.dr = true
    rw [Uart.clk_dr, show (s.uart.receive b).clrRx = false from noClear, Uart.receive_rxq]
    simp

theorem exec_hostKeys (ks : List Word) (s : State) :
    exec (.hostKeys ks) s = .next ((s.supplyKeys ks).respond .nothing) := rfl

/-- Settles O56. -/
theorem suppliedKeysArriveAtTheNextTick : Obligations.SuppliedKeysArriveAtTheNextTick := by
  intro s ks
  refine ⟨_, exec_hostKeys ks s, rfl, ?_⟩
  by_cases driven : s.bus.div + 1 = 1000
  · refine ⟨_, exec_clk_of_driven _ driven, fun counting => absurd driven counting, fun _ => ⟨?_, rfl⟩⟩
    exact Soc.clk_kbd s.soc (s.hostKeys ++ ks)
  · exact ⟨_, exec_clk_of_counting _ driven, fun _ => ⟨rfl, rfl⟩, fun d => absurd d driven⟩

end Sys2Proof.Machine
end

section
/-!
PROOFS. Runs of a program (60_exceptions.md R320; 70_reset_and_hazards.md R351).
-/
namespace Sys2Proof.Machine

/-- A request issued runs the operation it selects, and the trace is then as before. -/
theorem step_issue {s : State} {r : Request} {i : Instr} (h : decode s.uart.dlab r = .ok i) :
    step (s.issue r) = exec i s := step_of_decode_ok s r s.trace i h

/-- A run goes on after every operation but HOST.CMD. -/
theorem runProgram_of_ne {s t : State} {r : Request} {rest : List Request} (hr : r ≠ .hostCmd)
    (h : step (s.issue r) = .next t) : runProgram (r :: rest) s = runProgram rest t := by
  refine runProgram_cons r rest s t h (Bool.eq_false_iff.mpr fun ends => ?_)
  exact hr ((endsRun_iff r t.resp).mp ends).1

/-- A run ends at the HOST.CMD that takes a command. -/
theorem runProgram_hostCmd_cons (s : State) (rest : List Request) (c : Command) (cs : List Command)
    (h : s.soc.cmdq = c :: cs) : runProgram (.hostCmd :: rest) s =
      .next ((s.withSoc { s.soc with cmdq := cs }).respond (.received (.cmdq c))) := by
  refine runProgram_end _ rest s _ ?_ ((endsRun_iff _ _).mpr ⟨rfl, by cases c; rfl⟩)
  rw [step_issue (i := .hostCmd) rfl, exec_hostCmd, s.pop_cmdq_cons c cs h]

/-- A run goes on after a HOST.CMD that waits (log 8). -/
theorem runProgram_hostCmd_nil (s : State) (rest : List Request) (h : s.soc.cmdq = []) :
    runProgram (.hostCmd :: rest) s = runProgram rest (s.respond .waits) := by
  refine runProgram_cons _ rest s _ ?_ rfl
  rw [step_issue (i := .hostCmd) rfl, exec_hostCmd, s.pop_empty .cmdq (List.map_eq_nil_iff.mpr h)]

/-- A program's register access as the operation it encodes. -/
theorem runProgram_encode {s t : State} {i : Instr} (rest : List Request) (hw : i.wf = true)
    (hd : i.dlabOk s.uart.dlab = true) (hr : encode i ≠ .hostCmd) (h : exec i s = .next t) :
    runProgram (encode i :: rest) s = runProgram rest t :=
  runProgram_of_ne hr ((step_issue (decode_encode _ i hw hd)).trans h)

/-- A latched poweroff is the one command queued after a tick that found none. -/
theorem Soc.clk_of_latched (d : Soc) (keys : List Word) (latched : d.poff = true) (empty : d.cmdq = []) :
    d.clk keys = { d with kbd := d.kbd ++ keys, cmdq := [.poweroff], poff := false } := by
  rw [Soc.clk_eq, if_pos latched, empty, List.nil_append]

/-- With a poweroff latched a run ends at the HOST.CMD after the next driven tick. -/
theorem runProgram_of_latched (s : State) (rest : List Request) (driven : s.bus.div + 1 = 1000)
    (latched : s.soc.poff = true) (empty : s.soc.cmdq = []) :
    ∃ u, runProgram (.clk :: .hostCmd :: rest) s = .next u ∧ u.resp = .received (.cmdq .poweroff) ∧
      u.soc.cmdq = [] ∧ u.soc.poff = false ∧ u.trace = s.trace := by
  have tick := runProgram_encode (.hostCmd :: rest) (i := .clk) rfl rfl nofun (exec_clk_of_driven s driven)
  have sent := Soc.clk_of_latched s.soc s.hostKeys latched empty
  exact ⟨_, tick.trans (runProgram_hostCmd_cons _ rest .poweroff [] (congrArg Soc.cmdq sent)), rfl, rfl,
    congrArg Soc.poff sent, rfl⟩

/-- Settles O48: the poweroff program latches, reads line status, and goes on with a poweroff latched. -/
theorem aRunEndsWhereTheHostTakesThePoweroff : Obligations.ARunEndsWhereTheHostTakesThePoweroff := by
  refine ⟨runProgram_nil, runProgram_hostCmd_cons, runProgram_hostCmd_nil,
    fun s t r rest hr h => runProgram_of_ne hr h, fun s v rest driven empty => ?_⟩
  have access (p : List Request) : runProgram (encode (.socPoweroffW v) :: .read 0x10000005 1 :: p) s =
      runProgram p (((s.withSoc { s.soc with poff := true }).respond .done).readAnswer s.uart.lsr) :=
    (runProgram_encode (i := .socPoweroffW v) _ rfl rfl nofun (exec_socPoweroffW v s)).trans
      (runProgram_encode (i := .uartLsrR) p rfl rfl nofun rfl)
  obtain ⟨u, run, answer, queue, latch, trace⟩ := runProgram_of_latched
    (((s.withSoc { s.soc with poff := true }).respond .done).readAnswer s.uart.lsr) rest driven rfl empty
  exact ⟨_, u, access [], rfl, (access _).trans run, answer, queue, latch, trace⟩

end Sys2Proof.Machine
end

section
/-!
PROOFS. What an operation can do to the state besides its answer, said once (`exec_effect`), and the invariants of
every operation and step derived from it case by case.
-/
namespace Sys2Proof.Machine

/-! ### The effects -/

/-- The Irq events an operation applies to the PLIC by itself. The driven tick's event is the UART's. -/
def emitted (i : Instr) : List IrqEvent :=
  match i with
  | .plicIrq source level => [{ source, level }]
  | .busDrain col => col
  | _ => []

/-- What an operation can make of the PLIC (41_plic.md), given the events it applies. -/
inductive PlicEffect (events : List IrqEvent) (p : Plic) : Plic → Prop where
  | priority (i : Nat) (v : Word) : PlicEffect events p (p.setPrio i v)
  | context (c : Context) (en : Bitmap) (thr : Word) :
      PlicEffect events p (p.withCtx c { p.ctx c with en := en, thr := thr })
  | claim (c : Context) : PlicEffect events p (p.claim c).2
  | complete (c : Context) (v : Word) : PlicEffect events p (p.complete c v)
  | drain : PlicEffect events p (p.drain events)
  | check : PlicEffect events p p.checkInterrupt.2

/-- What an operation can make of the UART (42_uart.md; 44_channel_host.md). -/
inductive UartEffect (u : Uart) : Uart → Prop where
  | unconstrained (lcr scr fcr dll dlh : Byte) (rxq : List Byte) : UartEffect u
      { u with lcr := lcr, scr := scr, fcr := fcr, dll := dll, dlh := dlh, rxq := rxq }
  | enable (v : Byte) : UartEffect u { u with ier := v &&& Config.uartIerMask }
  | modem (v : Byte) : UartEffect u { u with mcr := v &&& Config.uartMcrMask }
  | read : UartEffect u u.readData.2
  | write (v : Byte) : UartEffect u (u.writeData v)
  | send (b : Byte) : UartEffect u (u.sendOut b)
  | take (q : List Byte) (rest : q <:+ u.txq) : UartEffect u { u with txq := q }
  | clk : UartEffect u u.clk

/-- What an operation can make of the SoC-auxiliary device (43_soc_aux.md; 44_channel_host.md). -/
inductive SocEffect (d : Soc) : Soc → Prop where
  | takeKeys (q : List Word) (rest : q <:+ d.kbd) : SocEffect d { d with kbd := q }
  | keys (ks : List Word) (nonzero : keyWords ks = true) : SocEffect d { d with kbd := d.kbd ++ ks }
  | command (poff : Bool) (q : List Command) : SocEffect d { d with poff := poff, cmdq := q }
  | pixel (j : Nat) (v : Word) (inBuffer : j < Config.pixWords) :
      SocEffect d { d with pix := d.pix.writeWord j v }
  | present : SocEffect d d.present

/-- What operation `i` can make of the state besides its answer. -/
inductive Effect (i : Instr) (s : State) : State → Prop where
  | none : Effect i s s
  | clock : Effect i s s.clockDrawn
  | supply (ks : List Word) (nonzero : keyWords ks = true) : Effect i s (s.supplyKeys ks)
  | ram (w : Width) (o : BitVec Config.ramOffBits) (v : Carrier)
      (fits : o.toNat + w.bytes ≤ Config.ramSize) :
      Effect i s (s.withRam (s.ram.write (ramAddress o) w.bytes v))
  | plic (p : Plic) (h : PlicEffect (emitted i) s.plic p) : Effect i s (s.withPlic p)
  | uart (u : Uart) (h : UartEffect s.uart u) : Effect i s (s.withUart u)
  | soc (d : Soc) (h : SocEffect s.soc d) : Effect i s (s.withSoc d)
  | socClk : Effect i s { s with soc := s.soc.clk s.hostKeys, hostKeys := [] }
  | count (counting : s.bus.div + 1 ≠ Config.clkDiv) : Effect i s (s.withBus { div := s.bus.div + 1 })
  | tick : Effect i s (s.withBus { div := 0 }).drivenTick

/-- The outcome is an effect of `i` and an answer. -/
def HasEffect (i : Instr) (s : State) (o : Host.Outcome State Fault Refusal) : Prop :=
  ∃ u r, o = .next (u.respond r) ∧ Effect i s u

section
variable {i : Instr} {s : State}

theorem hasEffect_respond (r : Response) : HasEffect i s (.next (s.respond r)) := ⟨s, r, rfl, .none⟩

theorem hasEffect_uart {u : Uart} (r : Response) (h : UartEffect s.uart u) :
    HasEffect i s (.next ((s.withUart u).respond r)) := ⟨_, r, rfl, .uart u h⟩

theorem hasEffect_soc {d : Soc} (r : Response) (h : SocEffect s.soc d) :
    HasEffect i s (.next ((s.withSoc d).respond r)) := ⟨_, r, rfl, .soc d h⟩

theorem hasEffect_plic {p : Plic} (r : Response) (h : PlicEffect (emitted i) s.plic p) :
    HasEffect i s (.next ((s.withPlic p).respond r)) := ⟨_, r, rfl, .plic p h⟩

theorem hasEffect_ite {c : Prop} [Decidable c] {t u : State} (ht : c → HasEffect i s (.next t))
    (hu : ¬ c → HasEffect i s (.next u)) : HasEffect i s (.next (if c then t else u)) := by
  by_cases h : c
  · rw [if_pos h]; exact ht h
  · rw [if_neg h]; exact hu h

theorem hasEffect_pop (q : Queue) : HasEffect i s (.next (s.pop q)) := by
  cases h : s.queue q with
  | nil => rw [s.pop_empty q h]; exact hasEffect_respond _
  | cons v rest =>
    rw [s.pop_cons q v rest h]
    cases q with
    | rxq => exact hasEffect_uart _ (.unconstrained _ _ _ _ _ _)
    | txq => exact hasEffect_uart _ (.take _ (List.tail_suffix _))
    | kbd => exact hasEffect_soc _ (.takeKeys _ (List.tail_suffix _))
    | cmdq => exact hasEffect_soc _ (.command _ _)

theorem hasEffect_clear (q : Queue) : HasEffect i s (.next ((s.clear q).respond .nothing)) := by
  cases q with
  | rxq => exact hasEffect_uart _ (.unconstrained _ _ _ _ _ _)
  | txq => exact hasEffect_uart _ (.take [] (List.nil_suffix))
  | kbd => exact hasEffect_soc _ (.takeKeys [] (List.nil_suffix))
  | cmdq => exact hasEffect_soc _ (.command _ _)

theorem hasEffect_push (v : ChanVal) (hw : (Instr.channelPush v).wf = true) :
    HasEffect i s (.next ((s.push v).respond .nothing)) := by
  cases v with
  | rxq b => exact hasEffect_uart _ (.unconstrained _ _ _ _ _ _)
  | txq b => exact hasEffect_uart _ (.send b)
  | kbd k =>
    have nonzero : keyWords [k] = true := by rw [keyWords, List.all_cons, List.all_nil, Bool.and_true]; exact hw
    exact hasEffect_soc _ (.keys [k] nonzero)
  | cmdq c => exact hasEffect_soc _ (.command _ _)

theorem hasEffect_readKey (r : Response) : HasEffect i s (.next ((s.withSoc s.soc.readKey.2).respond r)) := by
  refine hasEffect_soc r ?_
  rcases s.soc.readKey_cases with ⟨-, e⟩ | ⟨k, rest, queue, e⟩ <;> rw [e]
  · exact .takeKeys s.soc.kbd List.suffix_rfl
  · exact .takeKeys rest (queue ▸ List.suffix_cons k rest)

theorem hasEffect_clk : HasEffect i s (.next (s.busClk.respond .nothing)) := by
  rcases s.busClk_cases with ⟨-, e⟩ | ⟨counting, e⟩ <;> rw [e]
  · exact ⟨_, _, rfl, .tick⟩
  · exact ⟨_, _, rfl, .count counting⟩

end

/-- Every operation answers a next state and has one of the effects. -/
theorem exec_effect (i : Instr) (s : State) (hw : i.wf = true) : HasEffect i s (exec i s) := by
  cases i with
  | clk => exact hasEffect_clk
  | ramR w o => exact hasEffect_ite (fun _ => hasEffect_respond _) (fun _ => hasEffect_respond _)
  | ramW w o v =>
    obtain ⟨fits, -⟩ := Bool.and_eq_true_iff.mp hw
    exact hasEffect_ite (fun _ => hasEffect_respond _)
      (fun _ => ⟨_, _, rfl, .ram w o v (of_decide_eq_true fits)⟩)
  | plicPrioR i => exact hasEffect_ite (fun _ => hasEffect_respond _) (fun _ => hasEffect_respond _)
  | plicPrioW i v =>
    exact hasEffect_ite (fun _ => hasEffect_respond _) (fun _ => hasEffect_plic _ (.priority _ v))
  | plicPendR _ | plicEnR _ _ | plicThrR _ | plicBest _ | plicPendW _ _ => exact hasEffect_respond _
  | plicEnW c w v => exact hasEffect_plic _ (.context c _ _)
  | plicThrW c v => exact hasEffect_plic _ (.context c _ _)
  | plicClaimR c | plicClaim c => exact hasEffect_plic _ (.claim c)
  | plicCompleteW c v | plicComplete c v => exact hasEffect_plic _ (.complete c v)
  | plicIrq source level => exact hasEffect_plic (i := .plicIrq source level) _ .drain
  | busDrain col => exact hasEffect_plic (i := .busDrain col) _ .drain
  | poll | plicCheckInterrupt => exact hasEffect_plic _ .check
  | uartRbrR => exact hasEffect_uart _ .read
  | uartThrW v => exact hasEffect_uart _ (.write v)
  | uartDllW _ | uartDlhW _ | uartFcrW _ | uartLcrW _ | uartScrW _ =>
    exact hasEffect_uart _ (.unconstrained _ _ _ _ _ _)
  | uartIerW v => exact hasEffect_uart _ (.enable v)
  | uartMcrW v => exact hasEffect_uart _ (.modem v)
  | uartDllR | uartIerR | uartDlhR | uartIirR | uartLcrR | uartMcrR | uartLsrR | uartMsrR | uartScrR
  | uartLsrW _ | uartMsrW _ => exact hasEffect_respond _
  | socTimeR | hostNow => exact ⟨_, _, rfl, .clock⟩
  | socFbctlLoR => exact hasEffect_respond _
  | socFbctlHiW v => exact hasEffect_soc _ .present
  | socKbdR => exact hasEffect_readKey _
  | socPoweroffW v => exact hasEffect_soc _ (.command true _)
  | socPixR j => exact hasEffect_ite (fun _ => hasEffect_respond _) (fun _ => hasEffect_respond _)
  | socPixW j v =>
    exact hasEffect_ite (fun inBuffer => hasEffect_soc _ (.pixel j v inBuffer)) (fun _ => hasEffect_respond _)
  | ramClk _ | plicClk _ => exact hasEffect_respond _
  | uartClk col => exact hasEffect_uart _ .clk
  | socClk col => exact ⟨_, _, rfl, .socClk⟩
  | channelPush v => exact hasEffect_push v hw
  | channelPop q => exact hasEffect_pop q
  | channelNonempty q => exact hasEffect_respond _
  | channelClear q => exact hasEffect_clear q
  | hostRx b => exact hasEffect_uart _ (.unconstrained _ _ _ _ _ _)
  | hostTx => exact hasEffect_pop .txq
  | hostCmd => exact hasEffect_pop .cmdq
  | hostKeys ks => exact ⟨_, _, rfl, .supply ks hw⟩

/-- A step that takes a request rejects it as an access fault, or has an effect of the operation it selects. -/
theorem step_effect {s t : State} {r : Request} {rest : List Request} (htrace : s.trace = r :: rest)
    (hstep : step s = .next t) :
    t = ({ s with trace := rest } : State).respond .accessFault ∨
    ∃ i u a, decode s.uart.dlab r = .ok i ∧ i.wf = true ∧ Effect i { s with trace := rest } u ∧
      t = u.respond a := by
  cases hd : decode s.uart.dlab r with
  | rejected e =>
    rw [step_eq_reject htrace hd] at hstep
    exact .inl (State.reject_next _ _ e hstep)
  | ok i =>
    obtain ⟨wf, -⟩ := decode_applies hd
    obtain ⟨u, a, he, effect⟩ := exec_effect i { s with trace := rest } wf
    rw [step_eq_exec htrace hd, he] at hstep
    cases hstep
    exact .inr ⟨i, u, a, rfl, wf, effect, rfl⟩

/-! ### The trace -/

/-- No operation touches what its agents have yet to issue. -/
theorem Effect.trace_eq {i : Instr} {s u : State} (h : Effect i s u) : u.trace = s.trace := by
  cases h <;> rfl

theorem step_trace {s t : State} {r : Request} {rest : List Request} (htrace : s.trace = r :: rest)
    (hstep : step s = .next t) : t.trace = rest := by
  rcases step_effect htrace hstep with rfl | ⟨i, u, a, -, -, effect, rfl⟩
  · rfl
  · exact effect.trace_eq

/-- A request that selects an operation answers a next state. -/
theorem step_answers_of_decode {s : State} {r : Request} {rest : List Request} {i : Instr}
    (htrace : s.trace = r :: rest) (hd : decode s.uart.dlab r = .ok i) : ∃ t, step s = .next t := by
  obtain ⟨u, a, he, -⟩ := exec_effect i { s with trace := rest } (decode_applies hd).1
  exact ⟨_, (step_eq_exec htrace hd).trans he⟩

/-- Settles O12: the caller's accesses answer, its other requests and the host's select an operation. -/
theorem noAgentRequestStopsTheMachine : Obligations.NoAgentRequestStopsTheMachine := by
  intro s r rest htrace agent
  suffices answers : ∃ t, step s = .next t by
    obtain ⟨t, ht⟩ := answers
    exact ⟨t, ht, step_trace htrace ht⟩
  cases r with
  | read a n =>
    obtain ⟨t, ht, -⟩ := step_read_answers s rest a n
    exact ⟨t, State.eq_of_trace htrace ▸ ht⟩
  | write a n v =>
    obtain ⟨t, ht, -⟩ := step_write_answers s rest a n v
    exact ⟨t, State.eq_of_trace htrace ▸ ht⟩
  | hostKeys ks =>
    have nonzero : keyWords ks = true := agent.resolve_left Bool.false_ne_true
    exact step_answers_of_decode (i := .hostKeys ks) htrace (if_pos nonzero)
  | clk | poll | hostRx _ | hostTx | hostCmd | hostNow => exact step_answers_of_decode htrace rfl
  | _ => rcases agent with h | h <;> cases h

/-! ### The update flag (41_plic.md R179) -/

/-- The update flag rises only with a pending bit's change, and every change leaves it set. -/
def UpdFollows (p p' : Plic) : Prop :=
  (p.upd = false → p'.upd = true → p'.pend ≠ p.pend) ∧ (p'.pend ≠ p.pend → p'.upd = true)

/-- An operation that is silent about pending bits and does not raise the flag. -/
theorem updFollows_of_silent {p p' : Plic} (pend : p'.pend = p.pend) (upd : p'.upd = true → p.upd = true) :
    UpdFollows p p' :=
  ⟨fun low raised => absurd (upd raised) (Bool.eq_false_iff.mp low), fun changed => absurd pend changed⟩

theorem updFollows_drain (p : Plic) (col : List IrqEvent) (h : (col.map (·.source)).Nodup) :
    UpdFollows p (p.drain col) := by
  have iff := p.drain_upd_iff_changed col h
  exact ⟨fun low raised => (iff.mp raised).resolve_left (Bool.eq_false_iff.mp low),
    fun changed => iff.mpr (.inr changed)⟩

/-- A claim clears a pending bit that was set, and marks the update (R163). -/
theorem updFollows_claim (p : Plic) (c : Context) : UpdFollows p (p.claim c).2 := by
  rcases p.claim_cases c with ⟨-, e⟩ | ⟨-, lt, cand, e⟩ <;> rw [e]
  · exact updFollows_of_silent rfl id
  · simp only [Plic.candidate, Bool.and_eq_true] at cand
    obtain ⟨⟨-, pending⟩, -⟩ := cand
    refine ⟨fun _ _ same => ?_, fun _ => Plic.withCtx_upd _ c _⟩
    rw [Plic.withCtx_pend] at same
    rw [← same, setBit_getLsbD _ _ _ _ lt, if_pos rfl] at pending
    cases pending

theorem PlicEffect.updFollows {events : List IrqEvent} {p p' : Plic} (h : PlicEffect events p p')
    (distinct : (events.map (·.source)).Nodup) : UpdFollows p p' := by
  cases h with
  | priority i v => exact updFollows_of_silent (p.setPrio_pend i v) (p.setPrio_upd i v ▸ id)
  | context c en thr => exact updFollows_of_silent (p.withCtx_pend c _) (p.withCtx_upd c _ ▸ id)
  | claim c => exact updFollows_claim p c
  | complete c v => exact updFollows_of_silent (p.complete_pend c v) (p.complete_upd c v ▸ id)
  | drain => exact updFollows_drain p events distinct
  | check =>
    rcases p.checkInterrupt_cases with ⟨raised, e⟩ | ⟨-, e⟩ <;> rw [e]
    · exact updFollows_of_silent rfl fun _ => raised
    · exact updFollows_of_silent rfl id

theorem emitted_nodup {i : Instr} (hw : i.wf = true) : ((emitted i).map (·.source)).Nodup := by
  cases i with
  | plicIrq source level => exact nodup_singleton _
  | busDrain col => exact nodup_of_noCollision hw
  | _ => exact List.nodup_nil

theorem Effect.updFollows {i : Instr} {s u : State} (h : Effect i s u) (hw : i.wf = true) :
    UpdFollows s.plic u.plic := by
  cases h with
  | plic p h => exact h.updFollows (emitted_nodup hw)
  | tick => exact updFollows_drain s.plic [s.uart.clkEvent] (nodup_singleton _)
  | none | clock | supply | ram | uart | soc | socClk | count => exact updFollows_of_silent rfl id

/-- Settles O34. -/
theorem theUpdateFlagRisesExactlyWithAPendingChange :
    Obligations.TheUpdateFlagRisesExactlyWithAPendingChange := by
  intro i s t wf h
  obtain ⟨u, a, he, effect⟩ := exec_effect i s wf
  rw [he] at h
  cases h
  exact effect.updFollows wf

/-! ### Source-id 0 (10_state.md R60) -/

theorem Plic.sourceZeroQuiet_iff (p : Plic) : p.sourceZeroQuiet = true ↔
    p.pend.getLsbD 0 = false ∧ ∀ c, (p.ctx c).claimed.getLsbD 0 = false := by
  simp only [Plic.sourceZeroQuiet, Bool.and_eq_true, Bool.not_eq_true', and_assoc]
  refine and_congr_right fun _ => ⟨fun ⟨m, s⟩ c => ?_, fun h => ⟨h .machine, h .supervisor⟩⟩
  cases c
  · exact m
  · exact s

/-- Replacing a context keeps source-id 0 quiet if the new context does not claim it. -/
theorem Plic.quiet_withCtx {p q : Plic} {c : Context} {x : PlicCtx} (h : p.sourceZeroQuiet = true)
    (pend : q.pend.getLsbD 0 = false) (same : ∀ c', q.ctx c' = p.ctx c') (claimed : x.claimed.getLsbD 0 = false) :
    (q.withCtx c x).sourceZeroQuiet = true := by
  obtain ⟨-, contexts⟩ := p.sourceZeroQuiet_iff.mp h
  refine (Plic.sourceZeroQuiet_iff _).mpr ⟨by rw [Plic.withCtx_pend]; exact pend, fun c' => ?_⟩
  by_cases hc : c' = c
  · subst hc; rw [Plic.withCtx_ctx_same]; exact claimed
  · rw [Plic.withCtx_ctx_other _ _ _ _ hc, same]; exact contexts c'

/-- A PLIC with the same contexts and no pending bit 0 is quiet if the one before was. -/
theorem Plic.quiet_of_sameContexts {p q : Plic} (h : p.sourceZeroQuiet = true) (m : q.m = p.m) (s : q.s = p.s)
    (pend : q.pend.getLsbD 0 = false) : q.sourceZeroQuiet = true := by
  obtain ⟨-, contexts⟩ := p.sourceZeroQuiet_iff.mp h
  refine q.sourceZeroQuiet_iff.mpr ⟨pend, fun c => ?_⟩
  cases c
  · exact (congrArg (·.claimed.getLsbD 0) m).trans (contexts .machine)
  · exact (congrArg (·.claimed.getLsbD 0) s).trans (contexts .supervisor)

theorem Plic.quiet_drain {p : Plic} (h : p.sourceZeroQuiet = true) (col : List IrqEvent)
    (other : ∀ e ∈ col, e.source.val ≠ 0) : (p.drain col).sourceZeroQuiet = true := by
  refine Plic.quiet_of_sameContexts h (p.drain_m col) (p.drain_s col) ?_
  rw [p.drain_pend_of_notMem col 0 (by decide) other]
  exact (p.sourceZeroQuiet_iff.mp h).1

/-- The claimed source is not source-id 0. -/
theorem Plic.quiet_claim {p : Plic} (h : p.sourceZeroQuiet = true) (c : Context) :
    (p.claim c).2.sourceZeroQuiet = true := by
  obtain ⟨pend, contexts⟩ := p.sourceZeroQuiet_iff.mp h
  rcases p.claim_cases c with ⟨-, e⟩ | ⟨pos, -, -, e⟩ <;> rw [e]
  · exact h
  · have other : 0 ≠ p.best c := by omega
    refine Plic.quiet_withCtx h ?_ (fun c' => by cases c' <;> rfl) ?_
    · exact (setBit_getLsbD _ _ _ 0 (by decide)).trans ((if_neg other).trans pend)
    · exact (setBit_getLsbD _ _ _ 0 (by decide)).trans ((if_neg other).trans (contexts c))

theorem PlicEffect.quiet {events : List IrqEvent} {p p' : Plic} (h : PlicEffect events p p')
    (other : ∀ e ∈ events, e.source.val ≠ 0) (quiet : p.sourceZeroQuiet = true) : p'.sourceZeroQuiet = true := by
  obtain ⟨pend, contexts⟩ := p.sourceZeroQuiet_iff.mp quiet
  cases h with
  | priority i v =>
    exact Plic.quiet_of_sameContexts quiet (p.setPrio_m i v) (p.setPrio_s i v)
      (by rw [Plic.setPrio_pend]; exact pend)
  | context c en thr => exact Plic.quiet_withCtx quiet pend (fun _ => rfl) (contexts c)
  | claim c => exact Plic.quiet_claim quiet c
  | complete c v =>
    rw [p.complete_eq c v]
    refine Plic.quiet_withCtx quiet pend (fun _ => rfl) ?_
    rw [p.complete_claimed c v 0 (by decide), contexts c, ite_self]
  | drain => exact Plic.quiet_drain quiet events other
  | check =>
    rcases p.checkInterrupt_cases with ⟨-, e⟩ | ⟨-, e⟩ <;> rw [e]
    · exact quiet
    · exact quiet

/-- `UART_IRQ` is not source-id 0 (00_scope.md R8). -/
theorem uartIrq_ne_zero : Config.uartIrq.val ≠ 0 := Nat.succ_ne_zero _

theorem Effect.quiet {i : Instr} {s u : State} (h : Effect i s u) (other : ∀ e ∈ emitted i, e.source.val ≠ 0)
    (quiet : s.plic.sourceZeroQuiet = true) : u.plic.sourceZeroQuiet = true := by
  cases h with
  | plic p h => exact h.quiet other quiet
  | tick =>
    exact Plic.quiet_drain quiet [s.uart.clkEvent] fun e he => by
      rw [List.mem_singleton.mp he]; exact uartIrq_ne_zero
  | none | clock | supply | ram | uart | soc | socClk | count => exact quiet

/-- An operation whose request emits nothing for source-id 0 applies no event for it. -/
theorem emitted_of_encode (i : Instr) (h : (encode i).emitsSourceZero = false) :
    ∀ e ∈ emitted i, e.source.val ≠ 0 := by
  cases i with
  | plicIrq source level =>
    intro e he
    rw [List.mem_singleton.mp he]
    exact beq_eq_false_iff_ne.mp h
  | busDrain col =>
    intro e he zero
    exact List.any_eq_false.mp h e he (beq_iff_eq.mpr (Fin.ext zero))
  | _ => exact fun e he => absurd he List.not_mem_nil

/-- The request of the selected operation emits for source-id 0 only if the request taken does. -/
theorem encode_emitsSourceZero {dlab : Bool} {r : Request} {i : Instr} (h : decode dlab r = .ok i) :
    (encode i).emitsSourceZero = r.emitsSourceZero := by
  cases r with
  | read a n => rw [(readRow_of_decode dlab a n i h).encode_eq]
  | write a n v =>
    obtain ⟨v', e, -⟩ := (writeRow_of_decode dlab a n v i h).encode_eq
    rw [e]; rfl
  | _ => rw [(decode_without_address dlab _ i rfl h).1]

/-- Settles O35. -/
theorem sourceZeroStaysQuiet : Obligations.SourceZeroStaysQuiet := by
  have atReset : State.reset.plic.sourceZeroQuiet = true :=
    (Plic.sourceZeroQuiet_iff _).mpr ⟨BitVec.getLsbD_zero, fun c => by cases c <;> exact BitVec.getLsbD_zero⟩
  refine ⟨atReset, fun s t r rest htrace other quiet hstep => ?_⟩
  rcases step_effect htrace hstep with rfl | ⟨i, u, a, hd, -, effect, rfl⟩
  · exact quiet
  · exact effect.quiet (emitted_of_encode i ((encode_emitsSourceZero hd).trans other)) quiet

end Sys2Proof.Machine
end

section
/-!
PROOFS. The invariant of the state (10_state.md R22, R43, R59): every effect keeps it, so every step does; and the
state after reset.
-/
namespace Sys2Proof.Machine

/-! ### The UART (R59) -/

/-- The line-status bits R59 fixes: 7, 4, 3, 2 are 0, 6 and 5 are 1. -/
theorem lsr_ok_iff (l : Byte) :
    l &&& 0xFC#8 = 0x60#8 ↔ ∀ j, 2 ≤ j → j < 8 → l.getLsbD j = decide (j = 5 ∨ j = 6) := by
  have mask : ∀ j < 8, (0xFC#8).getLsbD j = decide (2 ≤ j) := by decide
  have value : ∀ j < 8, (0x60#8).getLsbD j = decide (j = 5 ∨ j = 6) := by decide
  constructor
  · intro h j h2 h8
    rw [← value j h8, ← h, BitVec.getLsbD_and, mask j h8, decide_eq_true h2, Bool.and_true]
  · intro h
    refine BitVec.eq_of_getLsbD_eq fun j hj => ?_
    rw [BitVec.getLsbD_and, mask j hj, value j hj]
    by_cases h2 : 2 ≤ j
    · rw [h j h2 hj, decide_eq_true h2, Bool.and_true]
    · rw [decide_eq_false h2, Bool.and_false, decide_eq_false (by omega)]

/-- Line status whose upper six bits are as before, or have `TEMT` and `THRE` set, is still right. -/
theorem lsr_ok_of_bits {l l' : Byte} (h : l &&& 0xFC#8 = 0x60#8)
    (bits : ∀ j, 2 ≤ j → j < 8 → l'.getLsbD j = if j = 5 ∨ j = 6 then true else l.getLsbD j) :
    l' &&& 0xFC#8 = 0x60#8 := by
  refine (lsr_ok_iff l').mpr fun j h2 h8 => ?_
  rw [bits j h2 h8, (lsr_ok_iff l).mp h j h2 h8]
  by_cases h56 : j = 5 ∨ j = 6
  · rw [if_pos h56, decide_eq_true h56]
  · rw [if_neg h56]

/-- Line status whose upper six bits are as before is still right. -/
theorem lsr_ok_of_same {l l' : Byte} (h : l &&& 0xFC#8 = 0x60#8)
    (bits : ∀ j, 2 ≤ j → j < 8 → l'.getLsbD j = l.getLsbD j) : l' &&& 0xFC#8 = 0x60#8 :=
  (lsr_ok_iff l').mpr fun j h2 h8 => (bits j h2 h8).trans ((lsr_ok_iff l).mp h j h2 h8)

/-- What the invariant says of the UART, its two conditions on queues and registers together. -/
structure Uart.Ok (u : Uart) : Prop where
  lsr : u.lsr &&& 0xFC#8 = 0x60#8
  ier : u.ier &&& 0xF0#8 = 0x00#8
  mcr : u.mcr &&& 0xE0#8 = 0x00#8
  iir : u.iir ∈ [0x01#8, 0x02#8, 0x04#8, 0x06#8]
  output : u.txq <:+ u.printed

theorem Uart.ok_iff (u : Uart) : u.Ok ↔ u.statusOk = true ∧ u.txq <:+ u.printed := by
  simp only [Uart.statusOk, Bool.and_eq_true, decide_eq_true_eq]
  exact ⟨fun h => ⟨⟨⟨⟨h.lsr, h.ier⟩, h.mcr⟩, h.iir⟩, h.output⟩,
    fun ⟨⟨⟨⟨lsr, ier⟩, mcr⟩, iir⟩, output⟩ => ⟨lsr, ier, mcr, iir, output⟩⟩

theorem Uart.Ok.setTxReady {u : Uart} (h : u.Ok) : u.setTxReady.Ok :=
  { h with lsr := lsr_ok_of_bits h.lsr fun j _ h8 => u.setTxReady_getLsbD j h8 }

theorem Uart.Ok.setOe {u : Uart} (h : u.Ok) (b : Bool) : (u.setOe b).Ok :=
  { h with lsr := lsr_ok_of_same h.lsr fun j h2 h8 =>
      (setBit_getLsbD u.lsr 1 b j h8).trans (if_neg (by omega)) }

theorem Uart.Ok.receive {u : Uart} (h : u.Ok) (b : Byte) : (u.receive b).Ok := { h with }

theorem Uart.Ok.sendOut {u : Uart} (h : u.Ok) (b : Byte) : (u.sendOut b).Ok := by
  obtain ⟨taken, split⟩ := h.output
  exact { h with output := ⟨taken, by rw [Uart.sendOut_txq, Uart.sendOut_printed, ← split, List.append_assoc]⟩ }

theorem Uart.Ok.readData {u : Uart} (h : u.Ok) : u.readData.2.Ok := by
  rcases u.readData_cases with ⟨-, e⟩ | ⟨b, rest, noBreak, queue, -⟩
  · rw [e]; exact h
  · rw [Uart.readData_of_byte noBreak queue]
    refine { h with lsr := lsr_ok_of_same h.lsr fun j h2 h8 => ?_ }
    exact (Uart.readData_lsr noBreak queue j h8).trans ((if_neg (by omega)).trans (if_neg (by omega)))

theorem Uart.Ok.writeData {u : Uart} (h : u.Ok) (v : Byte) : (u.writeData v).Ok := by
  rcases u.writeData_cases v with ⟨-, -, e⟩ | ⟨-, -, e⟩ | ⟨-, -, e⟩ <;> rw [e]
  · exact h.setOe true
  · exact h.setTxReady.receive v
  · exact h.setTxReady.sendOut v

/-- `TEMT` and `THRE` are set before a tick and stay set (R59). -/
theorem Uart.Ok.clk {u : Uart} (h : u.Ok) : u.clk.Ok := by
  obtain ⟨ier, mcr, -, -, -, -, txq, printed⟩ := u.clk_frame
  refine ⟨lsr_ok_of_bits h.lsr fun j h2 h8 => ?_, ier ▸ h.ier, mcr ▸ h.mcr, ?_, ?_⟩
  · rw [u.clk_lsr j h8, if_neg (by omega)]
    split_ifs with h56
    · rw [(lsr_ok_iff u.lsr).mp h.lsr j h2 h8, decide_eq_true h56, Bool.true_or, Bool.true_or]
    · rfl
  · rw [u.clk_iir]; exact Uart.identification_values _
  · rw [txq, printed]; exact h.output

theorem UartEffect.ok {u u' : Uart} (h : UartEffect u u') (ok : u.Ok) : u'.Ok := by
  cases h with
  | unconstrained => exact { ok with }
  | enable v => exact { ok with ier := by rw [BitVec.and_assoc]; exact BitVec.and_zero }
  | modem v => exact { ok with mcr := by rw [BitVec.and_assoc]; exact BitVec.and_zero }
  | read => exact ok.readData
  | write v => exact ok.writeData v
  | send b => exact ok.sendOut b
  | take q rest => exact { ok with output := rest.trans ok.output }
  | clk => exact ok.clk

/-! ### The SoC-auxiliary device -/

/-- What the invariant says of the SoC-auxiliary device. -/
structure Soc.Ok (d : Soc) : Prop where
  kbd : keyWords d.kbd = true
  pix : d.pix.wf = true
  frames : d.frames.all PixMem.wf = true
  presents : d.presents = d.frames.length

theorem keyWords_append {ks ks' : List Word} (h : keyWords ks = true) (h' : keyWords ks' = true) :
    keyWords (ks ++ ks') = true := by
  rw [keyWords, List.all_append]
  exact Bool.and_eq_true_iff.mpr ⟨h, h'⟩

theorem keyWords_suffix {ks q : List Word} (rest : q <:+ ks) (h : keyWords ks = true) : keyWords q = true :=
  List.all_eq_true.mpr fun k hk => List.all_eq_true.mp h k (rest.mem hk)

theorem SocEffect.ok {d d' : Soc} (h : SocEffect d d') (ok : d.Ok) : d'.Ok := by
  cases h with
  | takeKeys q rest => exact { ok with kbd := keyWords_suffix rest ok.kbd }
  | keys ks nonzero => exact { ok with kbd := keyWords_append ok.kbd nonzero }
  | command => exact { ok with }
  | pixel j v inBuffer => exact { ok with pix := PixMem.wf_writeWord d.pix j v ok.pix inBuffer }
  | present =>
    refine { ok with frames := ?_, presents := ?_ }
    · rw [Soc.present_frames, List.all_append]
      exact Bool.and_eq_true_iff.mpr ⟨ok.frames, by rw [List.all_cons, ok.pix]; rfl⟩
    · rw [Soc.present_presents, Soc.present_frames, List.length_append, ok.presents]; rfl

theorem Soc.Ok.clk {d : Soc} (ok : d.Ok) {ks : List Word} (nonzero : keyWords ks = true) : (d.clk ks).Ok := by
  rw [Soc.clk_eq]
  exact { ok with kbd := keyWords_append ok.kbd nonzero }

/-! ### The state -/

theorem State.inv_iff (s : State) : s.Inv ↔ s.bus.div < Config.clkDiv ∧ s.ram.wf = true ∧ s.uart.Ok ∧
    s.soc.Ok ∧ keyWords s.hostKeys = true := by
  constructor
  · intro h
    exact ⟨h.div_lt, h.ram_wf, s.uart.ok_iff.mpr ⟨h.uart_ok, h.printed_suffix⟩,
      ⟨h.kbd_words, h.pix_wf, h.frames_wf, h.presents_eq⟩, h.host_keys⟩
  · rintro ⟨div, ram, uart, soc, keys⟩
    obtain ⟨status, output⟩ := s.uart.ok_iff.mp uart
    exact ⟨div, ram, status, output, soc.kbd, keys, soc.pix, soc.frames, soc.presents⟩

/-- The invariant is about the block and the supplied keys: no answer and no trace matters. -/
theorem State.Inv.congr {s t : State} (h : s.Inv) (block : t.toBlock = s.toBlock) (keys : t.hostKeys = s.hostKeys) :
    t.Inv := by
  obtain ⟨b, inputs, a⟩ := t
  cases block
  exact { h with host_keys := (congrArg keyWords keys).trans h.host_keys }

theorem Effect.inv {i : Instr} {s u : State} (h : Effect i s u) (inv : s.Inv) : u.Inv := by
  obtain ⟨div, ram, uart, soc, keys⟩ := s.inv_iff.mp inv
  cases h with
  | none => exact inv
  | clock => exact inv.congr rfl rfl
  | supply ks nonzero => exact (State.inv_iff _).mpr ⟨div, ram, uart, soc, keyWords_append keys nonzero⟩
  | ram w o v fits =>
    have inside : ramAddress o + w.bytes ≤ Config.ramBase + Config.ramSize := by
      rw [ramAddress, Nat.add_assoc]; exact Nat.add_le_add_left fits _
    exact (State.inv_iff _).mpr
      ⟨div, Memory.wf_write _ _ _ v ram (Nat.le_add_right _ _) inside, uart, soc, keys⟩
  | plic p h => exact (State.inv_iff _).mpr ⟨div, ram, uart, soc, keys⟩
  | uart u' h => exact (State.inv_iff _).mpr ⟨div, ram, h.ok uart, soc, keys⟩
  | soc d h => exact (State.inv_iff _).mpr ⟨div, ram, uart, h.ok soc, keys⟩
  | socClk => exact (State.inv_iff _).mpr ⟨div, ram, uart, soc.clk keys, rfl⟩
  | count counting =>
    exact (State.inv_iff _).mpr ⟨Nat.lt_of_le_of_ne div counting, ram, uart, soc, keys⟩
  | tick => exact (State.inv_iff _).mpr ⟨Nat.succ_pos _, ram, uart.clk, soc.clk keys, rfl⟩

/-- Settles O59: the step's effect keeps the invariant; the trace and the answer are none of its business. -/
theorem everyStepKeepsTheInvariant : Obligations.EveryStepKeepsTheInvariant := by
  intro s t inv hstep
  rcases s.fetch_cases with ⟨htrace, -⟩ | ⟨r, rest, htrace, -⟩
  · cases (step_of_idle htrace).symm.trans hstep
    exact inv
  · have taken : ({ s with trace := rest } : State).Inv := inv.congr rfl rfl
    rcases step_effect htrace hstep with rfl | ⟨i, u, a, -, -, effect, rfl⟩
    · exact taken.congr rfl rfl
    · exact (effect.inv taken).congr rfl rfl

/-- Every priority is 0 at reset (R55). -/
theorem Plic.reset_prioOf (i : Nat) : Plic.reset.prioOf i = 0#32 := by
  cases i with
  | zero => rfl
  | succ k =>
    rw [Plic.prioOf, show Plic.reset.prio = Vector.replicate (Config.nSrc - 1) 0#32 from rfl,
      Vector.getElem?_replicate]
    split <;> rfl

/-- No source is pending at reset (R55). -/
theorem Plic.reset_pend : Plic.reset.pend = 0#Config.nSrc := rfl

/-- Nothing is listed at reset, so every byte of RAM reads as its initial contents (R54). -/
theorem Memory.reset_readByte (i : Nat) : Memory.readByte [] (0x80000000 + i) = Config.ramInit i :=
  congrArg Config.ramInit (Nat.add_sub_cancel_left (n := Config.ramBase) (m := i))

theorem State.reset_inv : State.reset.Inv :=
  (State.inv_iff _).mpr ⟨Nat.succ_pos _, rfl, ⟨rfl, rfl, rfl, List.mem_cons_self, List.suffix_rfl⟩,
    ⟨rfl, rfl, rfl, rfl⟩, rfl⟩

/-- Settles O60. -/
theorem resetIsTheConstructedBlock : Obligations.ResetIsTheConstructedBlock :=
  ⟨rfl, Plic.reset_prioOf, Plic.reset_pend, fun c => by cases c <;> rfl, rfl, rfl, rfl, rfl, rfl, rfl, rfl, rfl,
    rfl, rfl, rfl, rfl, rfl, fun i _ => Memory.reset_readByte i, fun _ => rfl, rfl, rfl, rfl, rfl, State.reset_inv⟩

end Sys2Proof.Machine
end

section
/-!
PROOFS. What an operation cannot see or touch: reads without effect (20_memory.md R76), the host's requests
(44_channel_host.md R288), and the block's own steps, which differ in what is drawn alone (10_state.md R61).
-/
namespace Sys2Proof.Machine

/-! ### Reads without effect -/

/-- The operation changes the answer alone, and executed again changes nothing. -/
def AnswersOnly (i : Instr) (s : State) : Prop :=
  ∃ a, exec i s = .next (s.respond a) ∧ exec i (s.respond a) = .next (s.respond a)

theorem answersOnly_ite {i : Instr} {s : State} (c : Prop) [Decidable c] (a b : Response)
    (first : exec i s = .next (if c then s.respond a else s.respond b))
    (again : ∀ r, exec i (s.respond r) = .next (if c then s.respond a else s.respond b)) : AnswersOnly i s := by
  by_cases hc : c
  · exact ⟨a, first.trans (by rw [if_pos hc]), (again a).trans (by rw [if_pos hc])⟩
  · exact ⟨b, first.trans (by rw [if_neg hc]), (again b).trans (by rw [if_neg hc])⟩

theorem exec_quietRead (i : Instr) (s : State) (h : i.quietRead = true) : AnswersOnly i s := by
  cases i with
  | ramR w o => exact answersOnly_ite (pastRam w o = true) .accessFault _ rfl fun _ => rfl
  | plicPrioR i => exact answersOnly_ite (i = 0) .accessFault _ rfl fun _ => rfl
  | socPixR j => exact answersOnly_ite (j < Config.pixWords) _ .accessFault rfl fun _ => rfl
  | plicPendR _ | plicEnR _ _ | plicThrR _ | uartDllR | uartIerR | uartDlhR | uartIirR | uartLcrR
  | uartMcrR | uartLsrR | uartMsrR | uartScrR | socFbctlLoR => exact ⟨_, rfl, rfl⟩
  | _ => cases h

/-- Settles O57. -/
theorem quietReadsAreIdempotent : Obligations.QuietReadsAreIdempotent := by
  intro i s quiet
  obtain ⟨a, first, again⟩ := exec_quietRead i s quiet
  exact ⟨s.respond a, first, rfl, again⟩

/-! ### The host's requests -/

/-- From `s` to `t` the block changed at the ends of the host's three queues alone (44_channel_host.md R288). -/
def HostQueuesOnly (s t : State) : Prop :=
  t.bus = s.bus ∧ t.ram = s.ram ∧ t.plic = s.plic ∧
  t.uart = { s.uart with rxq := t.uart.rxq, txq := t.uart.txq } ∧
  t.soc = { s.soc with cmdq := t.soc.cmdq } ∧
  (t.uart.rxq = s.uart.rxq ∨ ∃ b, t.uart.rxq = s.uart.rxq ++ [b]) ∧
  (t.uart.txq = s.uart.txq ∨ ∃ b, s.uart.txq = b :: t.uart.txq) ∧
  (t.soc.cmdq = s.soc.cmdq ∨ ∃ c, s.soc.cmdq = c :: t.soc.cmdq)

theorem hostQueuesOnly_of_sameBlock {s t : State} (h : t.toBlock = s.toBlock) : HostQueuesOnly s t := by
  obtain ⟨b, inputs, a⟩ := t
  cases h
  exact ⟨rfl, rfl, rfl, rfl, rfl, .inl rfl, .inl rfl, .inl rfl⟩

theorem hostQueuesOnly_pop_txq (s : State) : HostQueuesOnly s (s.pop .txq) := by
  cases queue : s.uart.txq with
  | nil =>
    rw [s.pop_empty .txq (List.map_eq_nil_iff.mpr queue)]
    exact hostQueuesOnly_of_sameBlock rfl
  | cons b bs =>
    rw [s.pop_txq_cons b bs queue]
    exact ⟨rfl, rfl, rfl, rfl, rfl, .inl rfl, .inr ⟨b, queue⟩, .inl rfl⟩

theorem hostQueuesOnly_pop_cmdq (s : State) : HostQueuesOnly s (s.pop .cmdq) := by
  cases queue : s.soc.cmdq with
  | nil =>
    rw [s.pop_empty .cmdq (List.map_eq_nil_iff.mpr queue)]
    exact hostQueuesOnly_of_sameBlock rfl
  | cons c cs =>
    rw [s.pop_cmdq_cons c cs queue]
    exact ⟨rfl, rfl, rfl, rfl, rfl, .inl rfl, .inl rfl, .inr ⟨c, queue⟩⟩

/-- Settles O58: the five formats of the host, each by what its operation does. -/
theorem theHostTouchesOnlyItsQueues : Obligations.TheHostTouchesOnlyItsQueues := by
  intro s t r rest htrace host hstep
  cases r with
  | hostRx b =>
    cases (step_eq_exec (i := .hostRx b) htrace rfl).symm.trans hstep
    exact ⟨rfl, rfl, rfl, rfl, rfl, .inr ⟨b, rfl⟩, .inl rfl, .inl rfl⟩
  | hostTx =>
    cases (step_eq_exec (i := .hostTx) htrace rfl).symm.trans hstep
    exact hostQueuesOnly_pop_txq { s with trace := rest }
  | hostCmd =>
    cases (step_eq_exec (i := .hostCmd) htrace rfl).symm.trans hstep
    exact hostQueuesOnly_pop_cmdq { s with trace := rest }
  | hostKeys ks =>
    cases (step_eq_exec (i := .hostKeys ks) htrace (if_pos host)).symm.trans hstep
    exact hostQueuesOnly_of_sameBlock rfl
  | hostNow =>
    cases (step_eq_exec (i := .hostNow) htrace rfl).symm.trans hstep
    exact hostQueuesOnly_of_sameBlock rfl
  | _ => cases host

/-! ### The block's steps -/

/-- Two states an operation leaves from one block differ in what it draws alone: the clock's value answered, the key
words of a tick. -/
structure DrawsApart (i : Instr) (t u : State) : Prop where
  answer : t.resp = u.resp ∨ i = .socTimeR ∨ i = .hostNow
  frame : u.toBlock = { t.toBlock with soc := { t.toBlock.soc with kbd := u.soc.kbd } }
  same : t.toBlock = u.toBlock ∨ i = .clk ∨ ∃ col, i = .socClk col

theorem drawsApart_of_eq {i : Instr} {t u : State} (block : t.toBlock = u.toBlock) (answer : t.resp = u.resp) :
    DrawsApart i t u := ⟨.inl answer, by rw [block], .inl block⟩

/-- Both outcomes are next states that differ in the draws alone. -/
def Alike (i : Instr) (o o' : Host.Outcome State Fault Refusal) : Prop :=
  ∃ t u, o = .next t ∧ o' = .next u ∧ DrawsApart i t u

theorem alike_of_eq {i : Instr} {t u : State} (block : t.toBlock = u.toBlock) (answer : t.resp = u.resp) :
    Alike i (.next t) (.next u) := ⟨t, u, rfl, rfl, drawsApart_of_eq block answer⟩

theorem alike_ite {i : Instr} (c : Prop) [Decidable c] {t t' u u' : State} (pos : Alike i (.next t) (.next u))
    (neg : Alike i (.next t') (.next u')) :
    Alike i (.next (if c then t else t')) (.next (if c then u else u')) := by
  by_cases h : c
  · rw [if_pos h, if_pos h]; exact pos
  · rw [if_neg h, if_neg h]; exact neg

section
variable {s s' : State} (h : s.toBlock = s'.toBlock)
include h

theorem queue_of_sameBlock (q : Queue) : s.queue q = s'.queue q := by
  obtain ⟨b, inputs, a⟩ := s
  cases h
  cases q <;> rfl

theorem alike_pop (i : Instr) (q : Queue) : Alike i (.next (s.pop q)) (.next (s'.pop q)) := by
  have same := queue_of_sameBlock h q
  cases hq : s'.queue q with
  | nil =>
    rw [s.pop_empty q (same.trans hq), s'.pop_empty q hq]
    exact alike_of_eq h rfl
  | cons v vs =>
    rw [s.pop_cons q v vs (same.trans hq), s'.pop_cons q v vs hq]
    refine alike_of_eq ?_ rfl
    obtain ⟨b, inputs, a⟩ := s
    cases h
    cases q <;> rfl

/-- The device after its clock differs in the key words taken alone (43_soc_aux.md R258). -/
theorem alike_clk : Alike .clk (exec .clk s) (exec .clk s') := by
  obtain ⟨b, inputs, a⟩ := s
  obtain ⟨b', inputs', a'⟩ := s'
  obtain rfl : b = b' := h
  by_cases driven : b.bus.div + 1 = 1000
  · rw [exec_clk_of_driven ⟨b, inputs, a⟩ driven, exec_clk_of_driven ⟨b, inputs', a'⟩ driven]
    refine ⟨_, _, rfl, rfl, .inl rfl, ?_, .inr (.inl rfl)⟩
    simp only [State.drivenTick_eq, State.respond_toBlock, Soc.clk_eq]
    rfl
  · rw [exec_clk_of_counting ⟨b, inputs, a⟩ driven, exec_clk_of_counting ⟨b, inputs', a'⟩ driven]
    exact alike_of_eq rfl rfl

end

/-- An operation on one block with other inputs beside it. -/
theorem exec_alike (i : Instr) (s s' : State) (h : s.toBlock = s'.toBlock) : Alike i (exec i s) (exec i s') := by
  cases i with
  | clk => exact alike_clk h
  | channelPop q => exact alike_pop h _ q
  | hostTx => exact alike_pop h _ .txq
  | hostCmd => exact alike_pop h _ .cmdq
  | _ => ?_
  all_goals
    obtain ⟨b, inputs, a⟩ := s
    cases h
  case ramR w o => exact alike_ite (pastRam w o = true) (alike_of_eq rfl rfl) (alike_of_eq rfl rfl)
  case ramW w o v => exact alike_ite (pastRam w o = true) (alike_of_eq rfl rfl) (alike_of_eq rfl rfl)
  case plicPrioR i => exact alike_ite (i = 0) (alike_of_eq rfl rfl) (alike_of_eq rfl rfl)
  case plicPrioW i v => exact alike_ite (i = 0) (alike_of_eq rfl rfl) (alike_of_eq rfl rfl)
  case socPixR j => exact alike_ite (j < Config.pixWords) (alike_of_eq rfl rfl) (alike_of_eq rfl rfl)
  case socPixW j v => exact alike_ite (j < Config.pixWords) (alike_of_eq rfl rfl) (alike_of_eq rfl rfl)
  case socTimeR => exact ⟨_, _, rfl, rfl, .inr (.inl rfl), rfl, .inl rfl⟩
  case hostNow => exact ⟨_, _, rfl, rfl, .inr (.inr rfl), rfl, .inl rfl⟩
  case socClk col =>
    rw [exec_socClk, exec_socClk]
    refine ⟨_, _, rfl, rfl, .inl rfl, ?_, .inr (.inr ⟨col, rfl⟩)⟩
    simp only [Soc.clk_eq]
  case channelPush v => cases v <;> exact alike_of_eq rfl rfl
  case channelNonempty q => cases q <;> exact alike_of_eq rfl rfl
  case channelClear q => cases q <;> exact alike_of_eq rfl rfl
  all_goals exact alike_of_eq rfl rfl

/-- A step of the block is a rejected access, or a run of the operation selected from some state over the block, whose
answer is the run's unless the operation reads the clock. -/
theorem BlockStep.cases {b b' : Block} {r : Request} {a : Response} (h : BlockStep b r a b') :
    (∃ e, decode b.uart.dlab r = .rejected e ∧ a = .accessFault ∧ b' = b) ∨
    (∃ i s t, decode b.uart.dlab r = .ok i ∧ s.toBlock = b ∧ exec i s = .next t ∧ b' = t.toBlock ∧
      (a = t.resp ∨ i = .socTimeR ∨ i = .hostNow)) := by
  cases h with
  | operation s t block keys run =>
    subst block
    cases hd : decode s.uart.dlab r with
    | rejected e =>
      rw [step_eq_reject (s := s.issue r) (rest := s.trace) rfl hd] at run
      cases State.reject_next _ _ e run
      exact .inl ⟨e, rfl, rfl, rfl⟩
    | ok i =>
      rw [step_issue hd] at run
      exact .inr ⟨i, s, t, rfl, rfl, run, rfl, .inl rfl⟩
  | timer now select =>
    exact .inr ⟨_, ⟨b, ⟨[], [], 0⟩, .none⟩, _, select, rfl, rfl, rfl, .inr (.inl rfl)⟩
  | clock now select =>
    exact .inr ⟨_, ⟨b, ⟨[], [], 0⟩, .none⟩, _, select, rfl, rfl, rfl, .inr (.inr rfl)⟩

/-- An operation without an address is selected by its own request alone. -/
theorem request_of_decode {dlab : Bool} {r : Request} {i : Instr} (h : decode dlab r = .ok i)
    (hi : (encode i).hasAddress = false) : r = encode i := by
  cases r with
  | read a n => rw [(readRow_of_decode dlab a n i h).encode_eq] at hi; cases hi
  | write a n v =>
    obtain ⟨v', e, -⟩ := (writeRow_of_decode dlab a n v i h).encode_eq
    rw [e] at hi; cases hi
  | _ => exact (decode_without_address dlab _ i rfl h).1.symm

/-- Two steps of the block on one operation differ in the draws alone. -/
theorem blockStep_draws {b b1 b2 : Block} {r : Request} {a1 a2 : Response} (h1 : BlockStep b r a1 b1)
    (h2 : BlockStep b r a2 b2) :
    (a1 = a2 ∨ decode b.uart.dlab r = .ok .socTimeR ∨ decode b.uart.dlab r = .ok .hostNow) ∧
    b2 = { b1 with soc := { b1.soc with kbd := b2.soc.kbd } } ∧
    (b1 = b2 ∨ r = .clk ∨ ∃ col, r = .deviceClk .soc col) := by
  rcases h1.cases with ⟨e1, d1, rfl, rfl⟩ | ⟨i, s1, t1, d1, over1, run1, rfl, ans1⟩
  · rcases h2.cases with ⟨e2, -, rfl, rfl⟩ | ⟨i, s2, t2, d2, -⟩
    · exact ⟨.inl rfl, rfl, .inl rfl⟩
    · rw [d1] at d2; cases d2
  · rcases h2.cases with ⟨e2, d2, -⟩ | ⟨j, s2, t2, d2, over2, run2, rfl, ans2⟩
    · rw [d1] at d2; cases d2
    obtain rfl : i = j := by rw [d1] at d2; cases d2; rfl
    obtain ⟨u1, u2, e1, e2, apart⟩ := exec_alike i s1 s2 (over1.trans over2.symm)
    cases run1.symm.trans e1
    cases run2.symm.trans e2
    refine ⟨?answer, apart.frame, ?block⟩
    case answer =>
      rcases ans1 with rfl | rfl | rfl
      · rcases ans2 with rfl | rfl | rfl
        · rcases apart.answer with same | rfl | rfl
          · exact .inl same
          · exact .inr (.inl d1)
          · exact .inr (.inr d1)
        · exact .inr (.inl d1)
        · exact .inr (.inr d1)
      · exact .inr (.inl d1)
      · exact .inr (.inr d1)
    case block =>
      rcases apart.same with same | rfl | ⟨col, rfl⟩
      · exact .inl same
      · exact .inr (.inl (request_of_decode d1 rfl))
      · exact .inr (.inr ⟨col, request_of_decode d1 rfl⟩)

/-- A driven tick may draw any key words. -/
theorem blockStep_tick (b : Block) (ks : List Word) (driven : b.bus.div + 1 = 1000) (nonzero : keyWords ks = true) :
    ∃ b', BlockStep b .clk .nothing b' ∧ b'.soc.kbd = b.soc.kbd ++ ks := by
  have tick := exec_clk_of_driven ⟨b, ⟨[], ks, 0⟩, .none⟩ driven
  have run := (step_issue (s := ⟨b, ⟨[], ks, 0⟩, .none⟩) (r := .clk) rfl).trans tick
  exact ⟨_, .operation _ _ rfl nonzero run, Soc.clk_kbd b.soc ks⟩

/-- Settles O19. -/
theorem onlyTheDrawsAreLeftOpen : Obligations.OnlyTheDrawsAreLeftOpen :=
  ⟨fun _ _ _ _ _ _ h1 h2 => blockStep_draws h1 h2, fun _ _ now => ⟨.timer now, .clock now⟩, blockStep_tick,
    fun s t r rest htrace nonzero run => step_isBlockStep s t r rest htrace nonzero run⟩

end Sys2Proof.Machine
end
